-- ==== Sys2Proof/Word.lean ====
section
/-! DEFINITION. The word types of the gost-crypto-algs CORE: bytes, nibbles, 32-bit words and byte
sequences of a fixed length (spec/00_scope.md R5, spec/10_state.md R21). -/

namespace Sys2Proof

/-- A byte, 0..255 (R5). -/
abbrev Byte := BitVec 8

/-- Four bits: the entries and the indices of one Magma substitution table (R151). -/
abbrev Nibble := BitVec 4

/-- A 32-bit unsigned number: a host-visible register (R21), a command word (R70), a Magma
sub-key or half-block (R28, R156). -/
abbrev Word := BitVec 32

/-- A byte sequence of length `n`; index 0 is the first byte (R5). -/
abbrev Bytes (n : Nat) := Vector Byte n

/-- A Kuznyechik block or round key: 16 bytes (R4, `KUZ_BS`). -/
abbrev KuzBlock := Bytes 16

/-- A Magma block: 8 bytes (R4, `MAG_BS`). -/
abbrev MagBlock := Bytes 8

/-- A key: 32 bytes (R4, `KEY_LEN`). -/
abbrev Key := Bytes 32

/-- The Kuznyechik bank `KUZ_RK[0..9]` (R27). -/
abbrev KuzBank := Vector KuzBlock 10

/-- The Magma bank `MAG_K[0..7]` (R28). -/
abbrev MagBank := Vector Word 8

end Sys2Proof
end

