-- ==== Sys2Proof/Syntax.lean ====
section
/-! DEFINITION. The 17 commands of the core, one constructor per row of spec/opcode_table.json
(spec/30_encoding.md R74). -/

namespace Sys2Proof

/-- A command (R74). Only the table commands carry operands in the command word: the bytes `A` and
`B`, used as they stand (R77); every other operand is a register or a buffer (R71, R73). -/
inductive Instr where
  /-- `KUZ.BLKSZ`, R203. -/
  | kuzBlksz
  /-- `MAG.BLKSZ`, R204. -/
  | magBlksz
  /-- `MAG.BLKSZ.STD`, R205. -/
  | magBlkszStd
  /-- `KUZ.SETKEY`, R135. -/
  | kuzSetkey
  /-- `MAG.SETKEY`, R162. -/
  | magSetkey
  /-- `MAG.SETKEY.STD`, R165. -/
  | magSetkeyStd
  /-- `KUZ.ENC`, R136. -/
  | kuzEnc
  /-- `MAG.ENC`, R163. -/
  | magEnc
  /-- `MAG.ENC.STD`, R166. -/
  | magEncStd
  /-- `KUZ.DEC`, R137. -/
  | kuzDec
  /-- `MAG.DEC`, R164. -/
  | magDec
  /-- `MAG.DEC.STD`, R167. -/
  | magDecStd
  /-- `GFMUL a, b`, R110. -/
  | gfmul (a b : Byte)
  /-- `SUB a`, R111. -/
  | sub (a : Byte)
  /-- `SUBINV a`, R112. -/
  | subinv (a : Byte)
  /-- `PAD.ADD`, R186. -/
  | padAdd
  /-- `PAD.REM`, R187. -/
  | padRem
  deriving DecidableEq, Repr

/-- The mnemonic of a command, as R78 spells it. -/
def Instr.mnemonic : Instr → String
  | .kuzBlksz => "KUZ.BLKSZ"
  | .magBlksz => "MAG.BLKSZ"
  | .magBlkszStd => "MAG.BLKSZ.STD"
  | .kuzSetkey => "KUZ.SETKEY"
  | .magSetkey => "MAG.SETKEY"
  | .magSetkeyStd => "MAG.SETKEY.STD"
  | .kuzEnc => "KUZ.ENC"
  | .magEnc => "MAG.ENC"
  | .magEncStd => "MAG.ENC.STD"
  | .kuzDec => "KUZ.DEC"
  | .magDec => "MAG.DEC"
  | .magDecStd => "MAG.DEC.STD"
  | .gfmul _ _ => "GFMUL"
  | .sub _ => "SUB"
  | .subinv _ => "SUBINV"
  | .padAdd => "PAD.ADD"
  | .padRem => "PAD.REM"

end Sys2Proof
end

