-- ==== Sys2Proof/Decode.lean ====
section
/-! DEFINITION. The command word (spec/30_encoding.md R70 to R77): its fields, the total decoder of
R75, which rejects by name, the encoder, and the match and mask of each row of the opcode map R74. -/

namespace Sys2Proof

/-- `OP`, bits 7:0 (R70). -/
def fieldOp (w : Word) : Byte := w.extractLsb' 0 8
/-- `CIPH`, bits 9:8: 0 Kuznyechik, 1 Magma, 2 and 3 reserved (R70). -/
def fieldCiph (w : Word) : BitVec 2 := w.extractLsb' 8 2
/-- `STD`, bit 10: 1 for the standard-byte-order wrapper (R70). -/
def fieldStd (w : Word) : BitVec 1 := w.extractLsb' 10 1
/-- `Z`, bits 15:11: reserved, must be 0 (R70). -/
def fieldZ (w : Word) : BitVec 5 := w.extractLsb' 11 5
/-- `A`, bits 23:16: the first byte operand (R70). -/
def fieldA (w : Word) : Byte := w.extractLsb' 16 8
/-- `B`, bits 31:24: the second byte operand (R70). -/
def fieldB (w : Word) : Byte := w.extractLsb' 24 8

/-- The word with the given fields: `OP + 2^8*CIPH + 2^10*STD + 2^11*Z + 2^16*A + 2^24*B` (R70). -/
def wordOfFields (op : Byte) (ciph : BitVec 2) (std : BitVec 1) (z : BitVec 5) (a b : Byte) : Word :=
  b ++ a ++ z ++ std ++ ciph ++ op

/-- Why a word decodes to no command, the cases of R76. They all raise the one fault
`IllegalCommand` (R225); the name says which check of R75 rejected the word. -/
inductive Illegal where
  /-- `OP` is none of the nine operation codes. -/
  | unknownOp
  /-- The field `Z` is not 0 (format K). -/
  | reservedZ
  /-- `A` or `B` is not 0 where the format says 0. -/
  | operandNotZero
  /-- `CIPH` is 2 or 3 (format K). -/
  | reservedCipher
  /-- `STD = 1` with `CIPH = 0`: there is no Kuznyechik wrapper. -/
  | noWrapper
  /-- Bits 15:8 (formats T and P) are not 0. -/
  | selectorNotZero
  deriving DecidableEq, Repr

/-- The four operations of format K for Kuznyechik (R71, R75). -/
def decodeKuz (op : Byte) : Except Illegal Instr :=
  if op = 0x01#8 then .ok .kuzBlksz
  else if op = 0x02#8 then .ok .kuzSetkey
  else if op = 0x03#8 then .ok .kuzEnc
  else if op = 0x04#8 then .ok .kuzDec
  else .error .unknownOp

/-- The four operations of format K for Magma, internal convention (R71, R75). -/
def decodeMag (op : Byte) : Except Illegal Instr :=
  if op = 0x01#8 then .ok .magBlksz
  else if op = 0x02#8 then .ok .magSetkey
  else if op = 0x03#8 then .ok .magEnc
  else if op = 0x04#8 then .ok .magDec
  else .error .unknownOp

/-- The four operations of format K for Magma behind the standard-byte-order wrapper (R71, R75). -/
def decodeMagStd (op : Byte) : Except Illegal Instr :=
  if op = 0x01#8 then .ok .magBlkszStd
  else if op = 0x02#8 then .ok .magSetkeyStd
  else if op = 0x03#8 then .ok .magEncStd
  else if op = 0x04#8 then .ok .magDecStd
  else .error .unknownOp

/-- Format K: `Z = A = B = 0`, `CIPH` 0 or 1, `STD = 1` only with `CIPH = 1` (R71, R75). -/
def decodeFormatK (w : Word) : Except Illegal Instr :=
  if fieldZ w ≠ 0#5 then .error .reservedZ
  else if fieldA w ≠ 0#8 ∨ fieldB w ≠ 0#8 then .error .operandNotZero
  else if fieldCiph w = 0#2 then
    if fieldStd w = 0#1 then decodeKuz (fieldOp w) else .error .noWrapper
  else if fieldCiph w = 1#2 then
    if fieldStd w = 0#1 then decodeMag (fieldOp w) else decodeMagStd (fieldOp w)
  else .error .reservedCipher

/-- Bits 15:8 are all 0: `CIPH`, `STD` and `Z` (R72, R73). -/
def selectorZero (w : Word) : Bool := w.extractLsb' 8 8 == 0#8

/-- Format T: bits 15:8 are 0, and `B` is 0 except for `GFMUL` (R72, R75). -/
def decodeFormatT (w : Word) : Except Illegal Instr :=
  if ¬ selectorZero w then .error .selectorNotZero
  else if fieldOp w = 0x10#8 then .ok (.gfmul (fieldA w) (fieldB w))
  else if fieldB w ≠ 0#8 then .error .operandNotZero
  else if fieldOp w = 0x11#8 then .ok (.sub (fieldA w))
  else if fieldOp w = 0x12#8 then .ok (.subinv (fieldA w))
  else .error .unknownOp

/-- Format P: bits 31:8 are all 0 (R73, R75). -/
def decodeFormatP (w : Word) : Except Illegal Instr :=
  if ¬ selectorZero w then .error .selectorNotZero
  else if fieldA w ≠ 0#8 ∨ fieldB w ≠ 0#8 then .error .operandNotZero
  else if fieldOp w = 0x20#8 then .ok .padAdd
  else if fieldOp w = 0x21#8 then .ok .padRem
  else .error .unknownOp

/-- `decode(w)` (R75): total on 32-bit words, and a function of the word alone. -/
def decode (w : Word) : Except Illegal Instr :=
  if fieldOp w = 0x01#8 ∨ fieldOp w = 0x02#8 ∨ fieldOp w = 0x03#8 ∨ fieldOp w = 0x04#8 then
    decodeFormatK w
  else if fieldOp w = 0x10#8 ∨ fieldOp w = 0x11#8 ∨ fieldOp w = 0x12#8 then
    decodeFormatT w
  else if fieldOp w = 0x20#8 ∨ fieldOp w = 0x21#8 then
    decodeFormatP w
  else .error .unknownOp

/-- The command word of a command (R74), field by field. -/
def encode : Instr → Word
  | .kuzBlksz     => wordOfFields 0x01 0 0 0 0 0
  | .magBlksz     => wordOfFields 0x01 1 0 0 0 0
  | .magBlkszStd  => wordOfFields 0x01 1 1 0 0 0
  | .kuzSetkey    => wordOfFields 0x02 0 0 0 0 0
  | .magSetkey    => wordOfFields 0x02 1 0 0 0 0
  | .magSetkeyStd => wordOfFields 0x02 1 1 0 0 0
  | .kuzEnc       => wordOfFields 0x03 0 0 0 0 0
  | .magEnc       => wordOfFields 0x03 1 0 0 0 0
  | .magEncStd    => wordOfFields 0x03 1 1 0 0 0
  | .kuzDec       => wordOfFields 0x04 0 0 0 0 0
  | .magDec       => wordOfFields 0x04 1 0 0 0 0
  | .magDecStd    => wordOfFields 0x04 1 1 0 0 0
  | .gfmul a b    => wordOfFields 0x10 0 0 0 a b
  | .sub a        => wordOfFields 0x11 0 0 0 a 0
  | .subinv a     => wordOfFields 0x12 0 0 0 a 0
  | .padAdd       => wordOfFields 0x20 0 0 0 0 0
  | .padRem       => wordOfFields 0x21 0 0 0 0 0

/-- The column `match` of a command's row in the opcode map (R74). -/
def rowMatch : Instr → Word
  | .kuzBlksz     => 0x00000001#32
  | .magBlksz     => 0x00000101#32
  | .magBlkszStd  => 0x00000501#32
  | .kuzSetkey    => 0x00000002#32
  | .magSetkey    => 0x00000102#32
  | .magSetkeyStd => 0x00000502#32
  | .kuzEnc       => 0x00000003#32
  | .magEnc       => 0x00000103#32
  | .magEncStd    => 0x00000503#32
  | .kuzDec       => 0x00000004#32
  | .magDec       => 0x00000104#32
  | .magDecStd    => 0x00000504#32
  | .gfmul _ _    => 0x00000010#32
  | .sub _        => 0x00000011#32
  | .subinv _     => 0x00000012#32
  | .padAdd       => 0x00000020#32
  | .padRem       => 0x00000021#32

/-- The column `mask` of a command's row in the opcode map (R74). -/
def rowMask : Instr → Word
  | .gfmul _ _ => 0x0000FFFF#32
  | .sub _     => 0xFF00FFFF#32
  | .subinv _  => 0xFF00FFFF#32
  | .kuzBlksz | .magBlksz | .magBlkszStd => 0xFFFFFFFF#32
  | .kuzSetkey | .magSetkey | .magSetkeyStd => 0xFFFFFFFF#32
  | .kuzEnc | .magEnc | .magEncStd => 0xFFFFFFFF#32
  | .kuzDec | .magDec | .magDecStd => 0xFFFFFFFF#32
  | .padAdd | .padRem => 0xFFFFFFFF#32

/-- The command with its operand bytes read from the fields `A` and `B` of a word (R77). -/
def Instr.readOperands (w : Word) : Instr → Instr
  | .gfmul _ _ => .gfmul (fieldA w) (fieldB w)
  | .sub _ => .sub (fieldA w)
  | .subinv _ => .subinv (fieldA w)
  | .kuzBlksz => .kuzBlksz
  | .magBlksz => .magBlksz
  | .magBlkszStd => .magBlkszStd
  | .kuzSetkey => .kuzSetkey
  | .magSetkey => .magSetkey
  | .magSetkeyStd => .magSetkeyStd
  | .kuzEnc => .kuzEnc
  | .magEnc => .magEnc
  | .magEncStd => .magEncStd
  | .kuzDec => .kuzDec
  | .magDec => .magDec
  | .magDecStd => .magDecStd
  | .padAdd => .padAdd
  | .padRem => .padRem

/-- What the decoder reads from an instruction whose low `nbits` bits are those of `w` and whose
other bits are 0. A command is one 32-bit word (R70, R81): a longer number is no command. -/
def decodeTableWord (nbits w : Nat) : Option Instr :=
  let v := w % 2 ^ nbits
  if v < 2 ^ 32 then (decode (BitVec.ofNat 32 v)).toOption else none

end Sys2Proof
end

