-- ==== Sys2Proof/Machine/Bytes.lean ====
section
/-! DEFINITION. Byte sequences and the integer primitives of spec/00_scope.md R5 to R7: the
bytewise exclusive-or, little-endian words, reversal. -/

namespace Sys2Proof.Machine

/-- The sequence that holds the elements of a list of known length. -/
def seqOf {α : Type} {n : Nat} (l : List α) (h : l.length = n) : Vector α n :=
  ⟨l.toArray, by simpa using h⟩

/-- Bytewise exclusive-or (R120, R6). -/
def xorBytes {n : Nat} (a b : Bytes n) : Bytes n :=
  seqOf (List.zipWith (· ^^^ ·) a.toList b.toList) (by simp)

/-- The sequence with its bytes in reverse order (R161). -/
def reverseBytes {n : Nat} (a : Bytes n) : Bytes n :=
  seqOf a.toList.reverse (by simp)

/-- `LE32([b0, b1, b2, b3]) = b0 + 2^8*b1 + 2^16*b2 + 2^24*b3` (R7). -/
def le32 (b0 b1 b2 b3 : Byte) : Word := b3 ++ b2 ++ b1 ++ b0

/-- `toLE32(v)`: the four bytes of `v`, least significant first (R7). -/
def toLe32 (v : Word) : List Byte :=
  [v.extractLsb' 0 8, v.extractLsb' 8 8, v.extractLsb' 16 8, v.extractLsb' 24 8]

/-- `zext_32` of a byte (R6, R22). -/
def zextByte (b : Byte) : Word := b.setWidth 32

end Sys2Proof.Machine
end

