-- ==== Sys2Proof/Config.lean ====
section
/-! DEFINITION. What an implementation fixes (spec/00_scope.md R4) and the free values of the model
(spec/10_state.md R35, spec/70_reset_and_hazards.md R250). -/

namespace Sys2Proof

/-- The configuration parameters of one core instance (R4): "a model must carry them as
configuration fields, not as trusted constants". The machine carries one `Config` in its state and
no step changes it; the checks on it are in Sys2Proof/WellFormed.lean, the default values in
Sys2Proof/Machine/Tables.lean.

* `dmemSize`: `DMEM_SIZE`, the number of bytes of buffer memory (R50).
* `piRows`: the permutation `PI`; entry `PI[16*r + c]` stands in row `r`, column `c`, the layout
  R104 prints it in.
* `lvec`: the coefficient vector `LVEC[0..15]` (R106).
* `msb`: the eight nibble tables `MSB[0..7][0..15]` (R151). -/
structure Config where
  dmemSize : Nat
  piRows   : Vector (Vector Byte 16) 16
  lvec     : Vector Byte 16
  msb      : Vector (Vector Nibble 16) 8
  deriving DecidableEq, Repr

/-- FREE VALUE (log entry 4). `Config.freeDmem n a` is what the byte of `DMEM` at address `a` reads
as when nothing has written it since the reset number `n`: R35 and R250 leave it unspecified ("any
value", 93_implementation_defined.md U3). No body, so nothing can be proved of it. -/
opaque Config.freeDmem : Nat → Nat → Byte

/-- FREE VALUE (log entry 5). The unspecified contents of `KUZ_RK` after the `RESET` host action
number `n` (R250). -/
opaque Config.freeKuzBank : Nat → KuzBank

/-- FREE VALUE (log entry 5). The unspecified contents of `MAG_K` after the `RESET` host action
number `n` (R250). -/
opaque Config.freeMagBank : Nat → MagBank

/-- FREE VALUE (log entry 12). What `PIINV` holds at a byte that no entry of `PI` equals: there is such
a byte only where `PI` is no permutation, and then R30 and R105 define no `PIINV`. -/
opaque Config.freeInverse : Byte → Byte

end Sys2Proof
end

