-- ==== Sys2Proof/Machine/HostAction.lean ====
section
/-! DEFINITION. The host side of the port (spec/30_encoding.md R80, spec/10_state.md R34): the
registers a host can name, what it can ask for, the actions that are in the interface and what a read
returns. -/

namespace Sys2Proof.Machine

/-- The registers of the host-visible register space (R34). Numbers 6, 7 and 13 upward name no
register, so the type has no value for them (D34). -/
inductive HostReg where
  | x0 | x1 | x2 | x3 | x4 | x5
  | cmd | status | err | fault | finfo
  deriving DecidableEq, Repr

/-- The number of a register in the register space (R34). -/
def HostReg.number : HostReg → Nat
  | .x0 => 0 | .x1 => 1 | .x2 => 2 | .x3 => 3 | .x4 => 4 | .x5 => 5
  | .cmd => 8 | .status => 9 | .err => 10 | .fault => 11 | .finfo => 12

/-- The register a number names, none for the numbers that name none (R34). -/
def HostReg.ofNumber? : Nat → Option HostReg
  | 0 => some .x0 | 1 => some .x1 | 2 => some .x2 | 3 => some .x3 | 4 => some .x4 | 5 => some .x5
  | 8 => some .cmd | 9 => some .status | 10 => some .err | 11 => some .fault | 12 => some .finfo
  | _ => none

/-- What a host program writes down, as plain data: the five forms of R80, the complete set, with an
address that may be any number. Which of them are host actions depends on `DMEM_SIZE`: see
`HostAction`. -/
inductive HostRequest where
  /-- `WR reg, value`. -/
  | wr (r : HostReg) (v : Word)
  /-- `RD reg`. -/
  | rd (r : HostReg)
  /-- `MW addr, bytes`: single-byte writes at rising addresses. -/
  | mw (addr : Nat) (bytes : List Byte)
  /-- `MR addr, n`: single-byte reads at rising addresses. -/
  | mr (addr n : Nat)
  /-- `RESET` (R250). -/
  | reset
  deriving DecidableEq, Repr

/-- The request names only bytes that exist, addresses below `size` (R80: an `MW` or `MR` of `n` bytes
requires `addr + n <= DMEM_SIZE`). -/
def HostRequest.inInterface (size : Nat) : HostRequest → Bool
  | .wr _ _ => true
  | .rd _ => true
  | .mw addr bs => decide (addr + bs.length ≤ size)
  | .mr addr n => decide (addr + n ≤ size)
  | .reset => true

/-- The host actions of a core whose `DMEM` has `size` bytes: the type admits only addresses below
`size` (R80, D34, 93_implementation_defined.md U6), so an access outside `DMEM` is no host action. -/
abbrev HostAction (size : Nat) := { r : HostRequest // r.inInterface size = true }

/-- What a read action returned to the host (R80). -/
inductive HostReply where
  /-- The value `RD` returned. -/
  | word (v : Word)
  /-- The bytes `MR` returned. -/
  | bytes (bs : List Byte)
  deriving DecidableEq, Repr

/-- The pseudo-instruction `SRC addr, len` (R79). -/
def pseudoSrc (addr len : Word) : List HostRequest := [.wr .x0 addr, .wr .x1 len]

/-- The pseudo-instruction `DST addr, len` (R79). -/
def pseudoDst (addr len : Word) : List HostRequest := [.wr .x2 addr, .wr .x3 len]

end Sys2Proof.Machine
end

