-- ==== Sys2Proof/Machine/Memory.lean ====
section
/-! DEFINITION. The contents of `DMEM` (spec/10_state.md R31, spec/20_memory.md R50, R51) as a list
of the bytes written since reset, in one canonical form: addresses strictly rising. An address that
is not listed holds no written value; the spec leaves what it reads as unspecified (R35), and
Sys2Proof/Machine/Ops.lean supplies that free value. -/

namespace Sys2Proof.Machine

/-- The written bytes of `DMEM`, by rising address. -/
abbrev Memory := List Host.Cell

/-- The byte written at `a`, none where nothing has been written since reset: what an unlisted
address reads as. -/
def Memory.get? : Memory → Nat → Option Byte
  | [], _ => none
  | c :: m, a => if c.1 = a then some c.2 else Memory.get? m a

/-- The contents after `v` has been written at `a`; the addresses stay in rising order. -/
def Memory.set : Memory → Nat → Byte → Memory
  | [], a, v => [(a, v)]
  | c :: m, a, v =>
    if a < c.1 then (a, v) :: c :: m
    else if a = c.1 then (a, v) :: m
    else c :: Memory.set m a v

/-- The contents after the bytes of a list have been written at rising addresses from `a` on
(R51). -/
def Memory.setBytes : Memory → Nat → List Byte → Memory
  | m, _, [] => m
  | m, a, v :: vs => Memory.setBytes (m.set a v) (a + 1) vs

/-- The canonical form: the listed addresses rise strictly. (No entry can equal what an unlisted
address reads as: an unlisted address has no written value, an entry has one.) -/
def Memory.wf : Memory → Bool
  | [] => true
  | [_] => true
  | c :: d :: m => decide (c.1 < d.1) && Memory.wf (d :: m)

/-- Every listed address is an address of a memory of `size` bytes (R50). -/
def Memory.below (size : Nat) (m : Memory) : Bool := m.all fun c => decide (c.1 < size)

end Sys2Proof.Machine
end

