-- ==== Sys2Proof/Machine/Tables.lean ====
section
/-! DEFINITION. The default configuration: the tables spec/40_gf_and_tables.md R104, R106 and
spec/42_magma.md R151 list, which are from general knowledge and not from the source
(93_implementation_defined.md G1 to G3), and the size of `DMEM` the model starts with. -/

namespace Sys2Proof.Machine

/-- The default `PI`, row by row as R104 lists it. PRESUMED by the spec (G1; log entry 2). -/
def defaultPi : Vector (Vector Byte 16) 16 :=
  #v[
    #v[252, 238, 221,  17, 207, 110,  49,  22, 251, 196, 250, 218,  35, 197,   4,  77],
    #v[233, 119, 240, 219, 147,  46, 153, 186,  23,  54, 241, 187,  20, 205,  95, 193],
    #v[249,  24, 101,  90, 226,  92, 239,  33, 129,  28,  60,  66, 139,   1, 142,  79],
    #v[  5, 132,   2, 174, 227, 106, 143, 160,   6,  11, 237, 152, 127, 212, 211,  31],
    #v[235,  52,  44,  81, 234, 200,  72, 171, 242,  42, 104, 162, 253,  58, 206, 204],
    #v[181, 112,  14,  86,   8,  12, 118,  18, 191, 114,  19,  71, 156, 183,  93, 135],
    #v[ 21, 161, 150,  41,  16, 123, 154, 199, 243, 145, 120, 111, 157, 158, 178, 177],
    #v[ 50, 117,  25,  61, 255,  53, 138, 126, 109,  84, 198, 128, 195, 189,  13,  87],
    #v[223, 245,  36, 169,  62, 168,  67, 201, 215, 121, 214, 246, 124,  34, 185,   3],
    #v[224,  15, 236, 222, 122, 148, 176, 188, 220, 232,  40,  80,  78,  51,  10,  74],
    #v[167, 151,  96, 115,  30,   0,  98,  68,  26, 184,  56, 130, 100, 159,  38,  65],
    #v[173,  69,  70, 146,  39,  94,  85,  47, 140, 163, 165, 125, 105, 213, 149,  59],
    #v[  7,  88, 179,  64, 134, 172,  29, 247,  48,  55, 107, 228, 136, 217, 231, 137],
    #v[225,  27, 131,  73,  76,  63, 248, 254, 141,  83, 170, 144, 202, 216, 133,  97],
    #v[ 32, 113, 103, 164,  45,  43,   9,  91, 203, 155,  37, 208, 190, 229, 108,  82],
    #v[ 89, 166, 116, 210, 230, 244, 180, 192, 209, 102, 175, 194,  57,  75,  99, 182]]

/-- The default `LVEC` (R106). PRESUMED by the spec (G2; log entry 2). -/
def defaultLvec : Vector Byte 16 :=
  #v[148, 32, 133, 16, 194, 192, 1, 251, 1, 192, 194, 16, 133, 32, 148, 1]

/-- The default `MSB` (R151). PRESUMED by the spec (G3; log entry 2). -/
def defaultMsb : Vector (Vector Nibble 16) 8 :=
  #v[
    #v[12,  4,  6,  2, 10,  5, 11,  9, 14,  8, 13,  7,  0,  3, 15,  1],
    #v[ 6,  8,  2,  3,  9, 10,  5, 12,  1, 14,  4,  7, 11, 13,  0, 15],
    #v[11,  3,  5,  8,  2, 15, 10, 13, 14,  1,  7,  4, 12,  9,  6,  0],
    #v[12,  8,  2,  1, 13,  4, 15,  6,  7,  0, 10,  5,  3, 14,  9, 11],
    #v[ 7, 15,  5, 10,  8,  1,  6, 13,  0,  9,  3, 14, 11,  4,  2, 12],
    #v[ 5, 13, 15,  6,  9,  2, 12, 10, 11,  7,  8,  1,  4,  3, 14,  0],
    #v[ 8, 14,  2,  5,  6,  9,  1, 12, 15,  4, 11,  0, 13, 10,  3,  7],
    #v[ 1,  7, 14, 13,  0,  5,  8,  3,  4, 15, 10,  6,  9, 12, 11,  2]]

/-- The size of `DMEM` in `State.reset`. DESIGN CHOICE (log entry 3): `DMEM_SIZE` is an open
parameter (R50); 256 is the size the programs of 95_test_vectors.md section 8 state. -/
def defaultDmemSize : Nat := 256

/-- The configuration `State.reset` carries (R4). -/
def defaultConfig : Config where
  dmemSize := defaultDmemSize
  piRows := defaultPi
  lvec := defaultLvec
  msb := defaultMsb

end Sys2Proof.Machine
end

