-- ==== Sys2Proof/Machine/State.lean ====
section
/-! DEFINITION. The state of one core instance (spec/10_state.md R20), with the fields of the model
that stand for its parameters and for the host at its port, and the state after reset (R35). -/

namespace Sys2Proof.Machine

/-- The complete state of one core instance (R20), and below it the model's own fields.

Architectural (R20): the operand registers `x[0]..x[5]` (R21, R22), the status registers `ERR`,
`FAULT`, `FINFO` (R25, R26), the Kuznyechik context `KV`, `KUZ_RK` (R27), the Magma context `MV`,
`MAG_K` (R28) and the buffer memory `DMEM` (R31). `CMD` and `STATUS` have no storage (R23, R24); the
working block is not state (R32); the tables are constants (R30).

The model's own: `cfg`, the parameters of the instance (R4; log entry 1); `resets`, the number of
`RESET` actions so far, which selects the free values (log entries 4, 5); `script`, what the host asks
for still, in the order the port accepts it (R59, R80; log entries 6, 7); `index`, the number of
actions performed (R33; log entry 6); `replies`, what the host's reads returned, oldest first (R80;
log entry 6). -/
structure State where
  x0 : Word
  x1 : Word
  x2 : Word
  x3 : Word
  x4 : Word
  x5 : Word
  err : Word
  fault : Word
  finfo : Word
  kv : Bool
  kuzRk : KuzBank
  mv : Bool
  magK : MagBank
  dmem : Memory
  cfg : Config
  resets : Nat
  script : List HostRequest
  index : Nat
  replies : List HostReply
  deriving DecidableEq, Repr

/-- Why the machine stops with a fault: there is no reason, and the type has no constructor. The
core's own faults (R222) are no member of it: taking one is a next state, with `FAULT` and `FINFO`
written (R230). -/
inductive Fault where
  deriving DecidableEq, Repr

/-- Why a step has no meaning. -/
inductive Refusal where
  /-- An instruction the model gives no meaning. No arm of `exec` raises it. Safe. -/
  | notModelled (mnemonic : String)
  /-- The host asks for an `MW` or `MR` of a byte at or above `DMEM_SIZE`, an address that does not
  exist: that is no host action and the model refuses it (R80, D34, 93_implementation_defined.md U6).
  Raised by the port for those two requests only, never by a command. Safe: the request has no effect
  (log entry 7). -/
  | hostAddressOutsideDmem
  deriving DecidableEq, Repr

/-- The outcome of one step of this machine. -/
abbrev Result := Host.Outcome State Fault Refusal

/-- The machine right after reset (R35, R250): every operand and status register 0, both valid bits
0, nothing written in `DMEM`. The banks are unspecified and unobservable while the valid bits are 0
(R35); the model names zero (DESIGN CHOICE, log entry 5). -/
def State.reset : State where
  x0 := 0
  x1 := 0
  x2 := 0
  x3 := 0
  x4 := 0
  x5 := 0
  err := 0
  fault := 0
  finfo := 0
  kv := false
  kuzRk := Vector.replicate 10 (Vector.replicate 16 0)
  mv := false
  magK := Vector.replicate 8 0
  dmem := []
  cfg := defaultConfig
  resets := 0
  script := []
  index := 0
  replies := []

end Sys2Proof.Machine
end

