-- ==== Sys2Proof/Machine/Flags.lean ====
section
/-! DEFINITION. The three one-bit flags `KV`, `MV`, `FLT` and the view `STATUS`
(spec/10_state.md R24, R36). No arithmetic sets a flag (R36). -/

namespace Sys2Proof.Machine

/-- `FLT`, the view `FAULT != 0`: the core is in the faulted state (R36, R231). -/
def State.faulted (s : State) : Bool := s.fault != 0

/-- `STATUS`: bit 0 is `KV`, bit 1 is `MV`, bit 2 is `FLT`, bits 31:3 are 0 (R24). -/
def State.status (s : State) : Word :=
  0#29 ++ BitVec.ofBool s.faulted ++ BitVec.ofBool s.mv ++ BitVec.ofBool s.kv

/-- Load the Kuznyechik context: all ten round keys and `KV <- 1` in one step (R27, R36). -/
def State.loadKuz (s : State) (rk : KuzBank) : State := { s with kuzRk := rk, kv := true }

/-- Load the Magma context: all eight words and `MV <- 1` in one step (R28, R36). -/
def State.loadMag (s : State) (k : MagBank) : State := { s with magK := k, mv := true }

end Sys2Proof.Machine
end

