-- ==== Sys2Proof/Machine/Operands.lean ====
section
/-! DEFINITION. The operands of a command (spec/10_state.md R21): the operand registers as natural
numbers, the buffers they declare, and the range check (spec/20_memory.md R57). Address and length
arithmetic is over the natural numbers, with no wrap (spec/00_scope.md R6). -/

namespace Sys2Proof.Machine

/-- `SRC_ADDR`, `x[0]` as a number (R21). -/
def State.srcAddr (s : State) : Nat := s.x0.toNat
/-- `SRC_LEN`, `x[1]` as a number (R21). -/
def State.srcLen (s : State) : Nat := s.x1.toNat
/-- `DST_ADDR`, `x[2]` as a number (R21). -/
def State.dstAddr (s : State) : Nat := s.x2.toNat
/-- `DST_LEN`, `x[3]` as a number: the capacity of the destination (R21). -/
def State.dstLen (s : State) : Nat := s.x3.toNat
/-- `PAD_BS`, `x[4]` as a number (R21). -/
def State.padBs (s : State) : Nat := s.x4.toNat

/-- `InRange(addr, n)`: `addr + n <= DMEM_SIZE` (R57). -/
def State.inRange (s : State) (addr n : Nat) : Bool := decide (addr + n ≤ s.cfg.dmemSize)

/-- The declared source buffer lies inside `DMEM` (R57). -/
def State.srcInRange (s : State) : Bool := s.inRange s.srcAddr s.srcLen

/-- The declared destination buffer lies inside `DMEM`, the whole of it (R57). -/
def State.dstInRange (s : State) : Bool := s.inRange s.dstAddr s.dstLen

end Sys2Proof.Machine
end

