-- ==== Sys2Proof/Machine/Ops.lean ====
section
/-! DEFINITION. The named operations every meaning is written with: reading and writing `DMEM`
(spec/20_memory.md R51), the result register, the errors and faults of spec/60_exceptions.md and the
one shape a command has (spec/44_contract.md R200), and `RESET` (spec/70_reset_and_hazards.md
R250). -/

namespace Sys2Proof.Machine

/-- `DMEM[a]` (R31): the byte last written there, or, where nothing has been written since reset,
the unspecified byte of that address (R35, R59; log entry 4). -/
def State.byteAt (s : State) (a : Nat) : Byte := (s.dmem.get? a).getD (Config.freeDmem s.resets a)

/-- `MemRead(addr, n)` (R51): `b[i] = DMEM[addr+i]`. -/
def State.memRead (s : State) (addr n : Nat) : List Byte :=
  (List.range n).map fun i => s.byteAt (addr + i)

/-- `MemRead(addr, n)` as a sequence of the known length `n` (R51). -/
def State.memReadSeq (s : State) (addr n : Nat) : Bytes n :=
  seqOf (s.memRead addr n) (by simp [State.memRead])

/-- `MemWrite(addr, n, v)` with `n` the length of `v` (R51). -/
def State.memWrite (s : State) (addr : Nat) (v : List Byte) : State :=
  { s with dmem := s.dmem.setBytes addr v }

/-- `x[5] <- v` (R22). -/
def State.setResult (s : State) (v : Word) : State := { s with x5 := v }

/-- The recoverable errors, the complete list (R221). -/
inductive ErrorName where
  /-- A `SETKEY` with `x[1] != 32` (R223). -/
  | invalidKeySize
  /-- A `PAD.REM` over data with no byte 0x80 (R224). -/
  | paddingNotFound
  deriving DecidableEq, Repr

/-- What `ERR` holds after an error (R221). -/
def ErrorName.code : ErrorName → Word
  | .invalidKeySize => 1
  | .paddingNotFound => 2

/-- The core's faults, the complete list (R222). -/
inductive FaultName where
  /-- The word decodes to no command (R225). -/
  | illegalCommand
  /-- An `ENC` or `DEC` of a cipher whose valid bit is 0 (R226). -/
  | keyNotLoaded
  /-- A buffer has the wrong length, is too small or is not inside `DMEM` (R227). -/
  | boundsFault
  /-- A `PAD.ADD` with `x[4] = 0` (R228). -/
  | invalidBlockSize
  deriving DecidableEq, Repr

/-- What `FAULT` holds after a fault (R222). -/
def FaultName.code : FaultName → Word
  | .illegalCommand => 1
  | .keyNotLoaded => 2
  | .boundsFault => 3
  | .invalidBlockSize => 4

/-- Fault entry, `raise F(w)`: `FAULT <- code`, `FINFO <- w` and nothing else (R230). There is no
vector, no saved program counter, no mode change, and no return: the faulted state is left by
`RESET` alone (R231, R232). -/
def State.raiseFault (s : State) (f : FaultName) (w : Word) : State :=
  { s with fault := f.code, finfo := w }

/-- `error E`: `ERR <- code` and nothing else (R221). -/
def State.reportError (s : State) (e : ErrorName) : State := { s with err := e.code }

/-- The outcome of a command's checks (R9): ok, a recoverable error or a fault. -/
inductive Verdict where
  /-- Every check passed. -/
  | ok
  /-- `error E`. -/
  | error (e : ErrorName)
  /-- `raise F(w)`. -/
  | fault (f : FaultName)
  deriving DecidableEq, Repr

/-- The shape of every command (R200): in the faulted state it is ignored (R231); otherwise its
checks decide, and the first that failed ends the command with the error or the fault it names and
no other change (R233); when all pass, the effect takes place and `ERR <- 0`. `effect` is the state
with the command's writes to the banks, `DMEM` and `x[5]`. The faulting word is the command's own
(R230); a command is the only reading of its word (R74), so it is `encode i`. -/
def command (i : Instr) (v : Verdict) (effect s : State) : Result :=
  if s.faulted then .next s
  else match v with
    | .ok => .next { effect with err := 0 }
    | .error e => .next (s.reportError e)
    | .fault f => .next (s.raiseFault f (encode i))

/-- `RESET` (R250), accepted in every state: every operand and status register 0 and both valid bits
0. The banks and `DMEM` take unspecified values: the free values of the new reset number (log entries
4 and 5). The parameters and the host's own fields are not state of the core and stay. -/
def State.hostReset (s : State) : State :=
  { s with
    x0 := 0, x1 := 0, x2 := 0, x3 := 0, x4 := 0, x5 := 0
    err := 0, fault := 0, finfo := 0
    kv := false, kuzRk := Config.freeKuzBank (s.resets + 1)
    mv := false, magK := Config.freeMagBank (s.resets + 1)
    dmem := [], resets := s.resets + 1 }

end Sys2Proof.Machine
end

