-- ==== Sys2Proof/Machine/Contract.lean ====
section
/-! DEFINITION. The uniform block-cipher contract (spec/44_contract.md): the checks the `SETKEY`
commands share (R201), the checks the `ENC` and `DEC` commands share (R202), and the three block-size
commands (R203 to R205). -/

namespace Sys2Proof.Machine

/-- The checks of every `SETKEY` (R201): the length first, then the range, whatever the address. -/
def State.setkeyVerdict (s : State) : Verdict :=
  if s.srcLen ≠ 32 then .error .invalidKeySize
  else if ¬ s.inRange s.srcAddr 32 then .fault .boundsFault
  else .ok

/-- The checks of every `ENC` and `DEC` (R202) with the valid bit `valid` of the cipher and its block
size `bs`, in order. -/
def State.blockVerdict (s : State) (valid : Bool) (bs : Nat) : Verdict :=
  if ¬ valid then .fault .keyNotLoaded
  else if s.srcLen ≠ bs then .fault .boundsFault
  else if s.dstLen < bs then .fault .boundsFault
  else if ¬ s.srcInRange ∨ ¬ s.dstInRange then .fault .boundsFault
  else .ok

/-- The key a `SETKEY` reads (R201). -/
def State.readKey (s : State) : Key := s.memReadSeq s.srcAddr 32

/-- The block an `ENC` or `DEC` of block size `bs` reads: all source bytes, before any is written
(R54, R202). -/
def State.readBlock (s : State) (bs : Nat) : Bytes bs := s.memReadSeq s.srcAddr bs

/-- The state after the transformed block has been stored at the destination (R202, R206). -/
def State.writeBlock {bs : Nat} (s : State) (b : Bytes bs) : State := s.memWrite s.dstAddr b.toList

/-- `KUZ.BLKSZ` (R203): needs no key. -/
def execKuzBlksz (s : State) : Result := command .kuzBlksz .ok (s.setResult 16) s

/-- `MAG.BLKSZ` (R204): needs no key. -/
def execMagBlksz (s : State) : Result := command .magBlksz .ok (s.setResult 8) s

/-- `MAG.BLKSZ.STD` (R205): the wrapper does not change the block length. -/
def execMagBlkszStd (s : State) : Result := command .magBlkszStd .ok (s.setResult 8) s

end Sys2Proof.Machine
end

