-- ==== Sys2Proof/Machine/Gf.lean ====
section
/-! DEFINITION. GF(2^8) arithmetic and the substitution tables (spec/40_gf_and_tables.md), and the
commands `GFMUL`, `SUB`, `SUBINV` that read them (R110 to R112). -/

namespace Sys2Proof.Machine

/-- Multiplication by `x`, the byte 0x02: shift left, folded by 0xC3 when bit 7 was set (R101). -/
def xtime (a : Byte) : Byte := bif a.getLsbD 7 then (a <<< 1) ^^^ 0xC3#8 else a <<< 1

/-- The loop of R102 from bit `i` on, `n` bits to go: `r` is the sum so far, `a` is the multiplicand
times `x^i`. -/
def gfmulLoop (b : Byte) : (n i : Nat) → (a r : Byte) → Byte
  | 0, _, _, r => r
  | n + 1, i, a, r => gfmulLoop b n (i + 1) (xtime a) (bif b.getLsbD i then r ^^^ a else r)

/-- The product in GF(2^8) modulo `x^8 + x^7 + x^6 + x + 1` (R100, R102). `GFMUL[a][b]` is this
function tabulated, and the two are interchangeable (R103). -/
def gfmul (a b : Byte) : Byte := gfmulLoop b 8 0 a 0

/-- `substitute(v) = PI[v]` (R104): row `v / 16`, column `v % 16` of the table. -/
def substitute (c : Config) (v : Byte) : Byte :=
  (c.piRows[(v.extractLsb' 4 4).toNat]'(v.extractLsb' 4 4).isLt)[(v.extractLsb' 0 4).toNat]'
    (v.extractLsb' 0 4).isLt

/-- `inverseSubstitute(v) = PIINV[v]`, the `i` with `PI[i] = v` (R105). `PIINV` is computed from `PI`
and is no parameter; in a legal configuration `PI` is a permutation (R30), so there is exactly one
such `i`. Log entry 12 says what stands here for any other table. -/
def inverseSubstitute (c : Config) (v : Byte) : Byte :=
  match (List.range 256).find? fun i => substitute c (BitVec.ofNat 8 i) == v with
  | some i => BitVec.ofNat 8 i
  | none => Config.freeInverse v

/-- `GFMUL a, b` (R110): `x[5] <- GFMUL[A][B]`. -/
def execGfmul (a b : Byte) (s : State) : Result :=
  command (.gfmul a b) .ok (s.setResult (zextByte (gfmul a b))) s

/-- `SUB a` (R111): `x[5] <- PI[A]`. -/
def execSub (a : Byte) (s : State) : Result :=
  command (.sub a) .ok (s.setResult (zextByte (substitute s.cfg a))) s

/-- `SUBINV a` (R112): `x[5] <- PIINV[A]`. -/
def execSubinv (a : Byte) (s : State) : Result :=
  command (.subinv a) .ok (s.setResult (zextByte (inverseSubstitute s.cfg a))) s

end Sys2Proof.Machine
end

