-- ==== Sys2Proof/Machine/Kuznyechik.lean ====
section
/-! DEFINITION. The Kuznyechik cipher (spec/41_kuznyechik.md): its layers, key schedule and block
transforms, and the commands `KUZ.SETKEY`, `KUZ.ENC`, `KUZ.DEC` (R135 to R137). -/

namespace Sys2Proof.Machine

/-- `S`: substitute every byte (R121). -/
def kuzS (c : Config) (b : KuzBlock) : KuzBlock := seqOf (b.toList.map (substitute c)) (by simp)

/-- `Sinv`: apply `inverseSubstitute` to every byte (R122). -/
def kuzSinv (c : Config) (b : KuzBlock) : KuzBlock :=
  seqOf (b.toList.map (inverseSubstitute c)) (by simp)

/-- The feedback byte `lfb` (R123): the products of `b[0..14]` with `LVEC[0..14]` and the byte
`b[15]`, all added. -/
def kuzLfb (c : Config) (b : KuzBlock) : Byte :=
  (List.zipWith gfmul (b.toList.take 15) (c.lvec.toList.take 15)).foldl (· ^^^ ·) b[15]

/-- `Rstep(b) = [lfb(b), b[0], ..., b[14]]` (R124). -/
def kuzRstep (c : Config) (b : KuzBlock) : KuzBlock :=
  seqOf (kuzLfb c b :: b.toList.take 15) (by simp)

/-- `L = Rstep^16` (R125). -/
def kuzL (c : Config) (b : KuzBlock) : KuzBlock := (kuzRstep c)^[16] b

/-- `[b[1], ..., b[15], b[0]]`, the rotation the inverse step starts with (R126). -/
def kuzRotate (b : KuzBlock) : KuzBlock := seqOf (b.toList.drop 1 ++ [b[0]]) (by simp)

/-- `Rinvstep(b) = [rot[0], ..., rot[14], lfb(rot)]` with `rot` the rotated block (R126). -/
def kuzRinvstep (c : Config) (b : KuzBlock) : KuzBlock :=
  seqOf ((kuzRotate b).toList.take 15 ++ [kuzLfb c (kuzRotate b)]) (by simp)

/-- `Linv = Rinvstep^16` (R127). -/
def kuzLinv (c : Config) (b : KuzBlock) : KuzBlock := (kuzRinvstep c)^[16] b

/-- The round constant `KC[i] = L(0^15 || [i+1])` (R128). -/
def kuzConst (c : Config) (i : Nat) : KuzBlock :=
  kuzL c (seqOf (List.replicate 15 0 ++ [BitVec.ofNat 8 (i + 1)]) (by simp))

/-- The Feistel step `F` of the schedule on the pair (left, right) (R130). -/
def kuzF (c : Config) (k : KuzBlock) (p : KuzBlock × KuzBlock) : KuzBlock × KuzBlock :=
  (xorBytes (kuzL c (kuzS c (xorBytes p.1 k))) p.2, p.1)

/-- Group `g` of the schedule: eight Feistel steps with `KC[8g] .. KC[8g+7]` (R131). -/
def kuzGroup (c : Config) (g : Nat) (p : KuzBlock × KuzBlock) : KuzBlock × KuzBlock :=
  (List.range 8).foldl (fun p j => kuzF c (kuzConst c (8 * g + j)) p) p

/-- `K1 = key[0:16]` and `K2 = key[16:32]` (R129). -/
def kuzKeyHalves (key : Key) : KuzBlock × KuzBlock :=
  (seqOf (key.toList.take 16) (by simp), seqOf (key.toList.drop 16) (by simp))

/-- `KuzSchedule(key)` (R131): the two key halves, then the pair after each group of eight steps. -/
def kuzSchedule (c : Config) (key : Key) : KuzBank :=
  let p0 := kuzKeyHalves key
  let p1 := kuzGroup c 0 p0
  let p2 := kuzGroup c 1 p1
  let p3 := kuzGroup c 2 p2
  let p4 := kuzGroup c 3 p3
  #v[p0.1, p0.2, p1.1, p1.2, p2.1, p2.2, p3.1, p3.2, p4.1, p4.2]

/-- One encryption round: key, `S`, `L` (R132). -/
def kuzRound (c : Config) (b k : KuzBlock) : KuzBlock := kuzL c (kuzS c (xorBytes b k))

/-- One decryption round: key, `Linv`, `Sinv` (R133). -/
def kuzInvRound (c : Config) (b k : KuzBlock) : KuzBlock := kuzSinv c (kuzLinv c (xorBytes b k))

/-- `KuzEnc(RK, b)` (R132): nine rounds with `RK[0..8]` in rising order, then `RK[9]` added. -/
def kuzEncrypt (c : Config) (rk : KuzBank) (b : KuzBlock) : KuzBlock :=
  xorBytes ((rk.toList.take 9).foldl (kuzRound c) b) rk[9]

/-- `KuzDec(RK, b)` (R133): nine inverse rounds with `RK[9]` down to `RK[1]`, then `RK[0]` added. -/
def kuzDecrypt (c : Config) (rk : KuzBank) (b : KuzBlock) : KuzBlock :=
  xorBytes ((rk.toList.drop 1).reverse.foldl (kuzInvRound c) b) rk[0]

/-- `KUZ.SETKEY` (R135). -/
def execKuzSetkey (s : State) : Result :=
  command .kuzSetkey s.setkeyVerdict (s.loadKuz (kuzSchedule s.cfg s.readKey)) s

/-- `KUZ.ENC` (R136). -/
def execKuzEnc (s : State) : Result :=
  command .kuzEnc (s.blockVerdict s.kv 16)
    (s.writeBlock (kuzEncrypt s.cfg s.kuzRk (s.readBlock 16))) s

/-- `KUZ.DEC` (R137). -/
def execKuzDec (s : State) : Result :=
  command .kuzDec (s.blockVerdict s.kv 16)
    (s.writeBlock (kuzDecrypt s.cfg s.kuzRk (s.readBlock 16))) s

end Sys2Proof.Machine
end

