-- ==== Sys2Proof/Machine/Magma.lean ====
section
/-! DEFINITION. The Magma cipher and its standard-byte-order wrapper (spec/42_magma.md), and the
commands `MAG.SETKEY`, `MAG.ENC`, `MAG.DEC` and their `.STD` forms (R162 to R167). -/

namespace Sys2Proof.Machine

/-- `K[i] = LE32(key[4i : 4i+4])`, one key word (R150). -/
def magKeyWord (key : Key) (i : Fin 8) : Word :=
  le32 key[4 * i.val] key[4 * i.val + 1] key[4 * i.val + 2] key[4 * i.val + 3]

/-- `MagKeyWords(key)`: the eight key words (R150). -/
def magKeyWords (key : Key) : MagBank := seqOf ((List.finRange 8).map (magKeyWord key)) (by simp)

/-- Nibble `i` of a word, bits `4i+3:4i`; nibble 0 is the least significant (R152). -/
def nibbleOf (a : Word) (i : Nat) : Nibble := a.extractLsb' (4 * i) 4

/-- `MSB[i][v]` (R151). -/
def msbEntry (c : Config) (i : Fin 8) (v : Nibble) : Nibble := c.msb[i][v.toNat]'v.isLt

/-- Nibble `i` of `t(a)`: `MSB[i][nibble i of a]` (R152). -/
def magLane (c : Config) (a : Word) (i : Fin 8) : Nibble := msbEntry c i (nibbleOf a i.val)

/-- `t(a)`, `substitute_nibbles`: nibble `i` of the result stands at bits `4i+3:4i` (R152). -/
def magT (c : Config) (a : Word) : Word :=
  magLane c a 7 ++ magLane c a 6 ++ magLane c a 5 ++ magLane c a 4 ++
    magLane c a 3 ++ magLane c a 2 ++ magLane c a 1 ++ magLane c a 0

/-- The round function `g(k, a) = rotl32(t(add32(a, k)), 11)` (R153); the addition wraps (R6). -/
def magG (c : Config) (k a : Word) : Word := (magT c (a + k)).rotateLeft 11

/-- `[0, 1, 2, 3, 4, 5, 6, 7]`. -/
def seqUp : List (Fin 8) := [0, 1, 2, 3, 4, 5, 6, 7]

/-- `[7, 6, 5, 4, 3, 2, 1, 0]`. -/
def seqDown : List (Fin 8) := [7, 6, 5, 4, 3, 2, 1, 0]

/-- `SEQ_ENC`: up three times, then down once (R154). -/
def seqEnc : List (Fin 8) := seqUp ++ seqUp ++ seqUp ++ seqDown

/-- `SEQ_DEC`: up once, then down three times (R155). -/
def seqDec : List (Fin 8) := seqUp ++ seqDown ++ seqDown ++ seqDown

/-- One round on the halves (n1, n2), both taken from the old pair (R156). -/
def magRound (c : Config) (k : MagBank) (p : Word × Word) (i : Fin 8) : Word × Word :=
  (magG c k[i] p.1 ^^^ p.2, p.1)

/-- The halves of an 8-byte block: `n1` from the first four bytes, `n2` from the last four (R156). -/
def magHalves (b : MagBlock) : Word × Word := (le32 b[0] b[1] b[2] b[3], le32 b[4] b[5] b[6] b[7])

/-- The output framing: `n2`'s bytes, then `n1`'s (R157). -/
def magFrame (p : Word × Word) : MagBlock := seqOf (toLe32 p.2 ++ toLe32 p.1) (by simp [toLe32])

/-- `MagXform(K, blk, seq)` (R156). -/
def magXform (c : Config) (k : MagBank) (b : MagBlock) (order : List (Fin 8)) : MagBlock :=
  magFrame (order.foldl (magRound c k) (magHalves b))

/-- `MagEnc(K, blk)` (R158). -/
def magEncrypt (c : Config) (k : MagBank) (b : MagBlock) : MagBlock := magXform c k b seqEnc

/-- `MagDec(K, blk)` (R158). -/
def magDecrypt (c : Config) (k : MagBank) (b : MagBlock) : MagBlock := magXform c k b seqDec

/-- `wordrev(key)[4i + j] = key[4i + 3 - j]`: each 4-byte group reversed in place (R160). -/
def wordrev (key : Key) : Key :=
  seqOf ((List.finRange 32).map fun p => key[4 * (p.val / 4) + (3 - p.val % 4)]) (by simp)

/-- `MagEncStd(K, blk) = rev8(MagEnc(K, rev8(blk)))` (R161). -/
def magEncryptStd (c : Config) (k : MagBank) (b : MagBlock) : MagBlock :=
  reverseBytes (magEncrypt c k (reverseBytes b))

/-- `MagDecStd(K, blk) = rev8(MagDec(K, rev8(blk)))` (R161). -/
def magDecryptStd (c : Config) (k : MagBank) (b : MagBlock) : MagBlock :=
  reverseBytes (magDecrypt c k (reverseBytes b))

/-- `MAG.SETKEY` (R162). -/
def execMagSetkey (s : State) : Result :=
  command .magSetkey s.setkeyVerdict (s.loadMag (magKeyWords s.readKey)) s

/-- `MAG.SETKEY.STD` (R165): the key's words are reversed once, here. -/
def execMagSetkeyStd (s : State) : Result :=
  command .magSetkeyStd s.setkeyVerdict (s.loadMag (magKeyWords (wordrev s.readKey))) s

/-- `MAG.ENC` (R163). -/
def execMagEnc (s : State) : Result :=
  command .magEnc (s.blockVerdict s.mv 8)
    (s.writeBlock (magEncrypt s.cfg s.magK (s.readBlock 8))) s

/-- `MAG.DEC` (R164). -/
def execMagDec (s : State) : Result :=
  command .magDec (s.blockVerdict s.mv 8)
    (s.writeBlock (magDecrypt s.cfg s.magK (s.readBlock 8))) s

/-- `MAG.ENC.STD` (R166): whichever `SETKEY` filled the bank (R168). -/
def execMagEncStd (s : State) : Result :=
  command .magEncStd (s.blockVerdict s.mv 8)
    (s.writeBlock (magEncryptStd s.cfg s.magK (s.readBlock 8))) s

/-- `MAG.DEC.STD` (R167): whichever `SETKEY` filled the bank (R168). -/
def execMagDecStd (s : State) : Result :=
  command .magDecStd (s.blockVerdict s.mv 8)
    (s.writeBlock (magDecryptStd s.cfg s.magK (s.readBlock 8))) s

end Sys2Proof.Machine
end

