-- ==== Sys2Proof/Machine/Padding.lean ====
section
/-! DEFINITION. The padding engine (spec/43_padding.md): the two transforms and the commands
`PAD.ADD`, `PAD.REM` (R186, R187). -/

namespace Sys2Proof.Machine

/-- The padding marker 0x80 (R4, `PAD_MARK`). -/
def padMark : Byte := 0x80#8

/-- `PadLen(n, S)`, the least multiple of `S` above `n`, for `S >= 1` (R180). -/
def padLen (n bs : Nat) : Nat := (n / bs + 1) * bs

/-- `AddPadding(data, S)`: the data, the marker, zeros up to `PadLen` (R180). -/
def addPadding (data : List Byte) (bs : Nat) : List Byte :=
  data ++ [padMark] ++ List.replicate (padLen data.length bs - data.length - 1) 0

/-- The greatest index that holds the marker, none where no byte does (R182). It is the length of
`RemovePadding(data)`. -/
def lastMarker : List Byte → Option Nat
  | [] => none
  | b :: bs =>
    match lastMarker bs with
    | some j => some (j + 1)
    | none => if b = padMark then some 0 else none

/-- `RemovePadding(data) = data[0:j]` with `j` the greatest index of a marker; none is the result
*not found* (R182). -/
def removePadding (data : List Byte) : Option (List Byte) := (lastMarker data).map data.take

/-- `p`, the padded length of the declared source (R186); it may exceed 2^32 - 1. -/
def State.paddedLen (s : State) : Nat := padLen s.srcLen s.padBs

/-- The data of a padding command: the declared source (R186, R187). -/
def State.padData (s : State) : List Byte := s.memRead s.srcAddr s.srcLen

/-- The checks of `PAD.ADD`, in order (R186). -/
def State.padAddVerdict (s : State) : Verdict :=
  if s.padBs = 0 then .fault .invalidBlockSize
  else if ¬ s.srcInRange then .fault .boundsFault
  else if s.dstLen < s.paddedLen then .fault .boundsFault
  else if ¬ s.dstInRange then .fault .boundsFault
  else .ok

/-- The checks of `PAD.REM`, in order (R187): the range, then the scan of the declared source. -/
def State.padRemVerdict (s : State) : Verdict :=
  if ¬ s.srcInRange then .fault .boundsFault
  else if (lastMarker s.padData).isNone then .error .paddingNotFound
  else .ok

/-- `PAD.ADD` (R186): all data bytes are read before the padded sequence is stored (R54). -/
def execPadAdd (s : State) : Result :=
  command .padAdd s.padAddVerdict
    ((s.memWrite s.dstAddr (addPadding s.padData s.padBs)).setResult
      (BitVec.ofNat 32 s.paddedLen)) s

/-- `PAD.REM` (R187): `x[5]` is the index of the last marker; no memory is written. -/
def execPadRem (s : State) : Result :=
  command .padRem s.padRemVerdict
    (s.setResult (BitVec.ofNat 32 ((lastMarker s.padData).getD 0))) s

end Sys2Proof.Machine
end

