-- ==== Sys2Proof/Machine/Dispatch.lean ====
section
/-! DEFINITION. One arm per command (spec/30_encoding.md R74): the rule of the command that a word
written to `CMD` selects. -/

namespace Sys2Proof.Machine
open Sys2Proof

/-- The effect of a command (R200): what a write of its word to `CMD` does. -/
def exec (i : Instr) (s : State) : Host.Outcome State Fault Refusal :=
  match i with
  | .kuzBlksz => Sys2Proof.Machine.execKuzBlksz s
  | .magBlksz => Sys2Proof.Machine.execMagBlksz s
  | .magBlkszStd => Sys2Proof.Machine.execMagBlkszStd s
  | .kuzSetkey => Sys2Proof.Machine.execKuzSetkey s
  | .magSetkey => Sys2Proof.Machine.execMagSetkey s
  | .magSetkeyStd => Sys2Proof.Machine.execMagSetkeyStd s
  | .kuzEnc => Sys2Proof.Machine.execKuzEnc s
  | .magEnc => Sys2Proof.Machine.execMagEnc s
  | .magEncStd => Sys2Proof.Machine.execMagEncStd s
  | .kuzDec => Sys2Proof.Machine.execKuzDec s
  | .magDec => Sys2Proof.Machine.execMagDec s
  | .magDecStd => Sys2Proof.Machine.execMagDecStd s
  | .gfmul a b => Sys2Proof.Machine.execGfmul a b s
  | .sub a => Sys2Proof.Machine.execSub a s
  | .subinv a => Sys2Proof.Machine.execSubinv a s
  | .padAdd => Sys2Proof.Machine.execPadAdd s
  | .padRem => Sys2Proof.Machine.execPadRem s

end Sys2Proof.Machine
end

