-- ==== Sys2Proof/Machine/Port.lean ====
section
/-! DEFINITION. The host port (spec/30_encoding.md R80, spec/10_state.md R34): executing a command
word, and what each host action does. -/

namespace Sys2Proof.Machine

/-- `Execute(w)` (R200): in the faulted state the write is ignored; a word that decodes to no command
raises `IllegalCommand`; any other runs the rule of its command. -/
def executeWord (w : Word) (s : State) : Result :=
  if s.faulted then .next s
  else match decode w with
    | .error _ => .next (s.raiseFault .illegalCommand w)
    | .ok i => exec i s

/-- The value a host read of a register returns (R21 to R26, R34); a read of `CMD` returns 0. -/
def State.readReg (s : State) : HostReg → Word
  | .x0 => s.x0
  | .x1 => s.x1
  | .x2 => s.x2
  | .x3 => s.x3
  | .x4 => s.x4
  | .x5 => s.x5
  | .cmd => 0
  | .status => s.status
  | .err => s.err
  | .fault => s.fault
  | .finfo => s.finfo

/-- A host write of a register (R34): stored in `x[0]..x[4]`, executed when it is `CMD` (R23),
ignored for the read-only registers. -/
def State.writeReg (s : State) (v : Word) : HostReg → Result
  | .x0 => .next { s with x0 := v }
  | .x1 => .next { s with x1 := v }
  | .x2 => .next { s with x2 := v }
  | .x3 => .next { s with x3 := v }
  | .x4 => .next { s with x4 := v }
  | .cmd => executeWord v s
  | .x5 | .status | .err | .fault | .finfo => .next s

/-- The host receives a reply (R80); the core's state does not change. -/
def State.reply (s : State) (r : HostReply) : State := { s with replies := s.replies ++ [r] }

/-- The effect of one host action (R80). The bytes an `MW` or `MR` names exist: the type of the action
says so. -/
def hostAction (s : State) (a : HostAction s.cfg.dmemSize) : Result :=
  match a.val with
  | .wr r v => s.writeReg v r
  | .rd r => .next (s.reply (.word (s.readReg r)))
  | .mw addr bs => .next (s.memWrite addr bs)
  | .mr addr n => .next (s.reply (.bytes (s.memRead addr n)))
  | .reset => .next s.hostReset

/-- The state in which the next action of the script, taken off it, takes effect: the host's index
has advanced by 1 (R33). -/
def State.advance (s : State) (rest : List HostRequest) : State :=
  { s with script := rest, index := s.index + 1 }

/-- The next host action takes effect (R59). With no action to come nothing happens: the core does
nothing by itself (R33, R234). A request that is no host action is refused (D34; log entry 7). -/
def portStep (s : State) : Result :=
  match s.script with
  | [] => .next s
  | r :: rest =>
    if h : r.inInterface s.cfg.dmemSize = true then hostAction (s.advance rest) ⟨r, h⟩
    else .refused .hostAddressOutsideDmem

/-- The script with a write of the command word `w` to `CMD` put before it (R23). -/
def State.withCommand (s : State) (w : Word) : State :=
  { s with script := .wr .cmd w :: s.script }

end Sys2Proof.Machine
end

