-- ==== Sys2Proof/Machine/Step.lean ====
section
/-! DEFINITION. One step of the machine: one host action, atomically (spec/20_memory.md R54, R59). -/

namespace Sys2Proof.Machine

/-- One step: the next action the host performs at the port takes its whole effect (R54, R59). -/
def step (s : State) : Host.Outcome State Fault Refusal := portStep s

/-- `s` with the command word whose low `nbits` bits are those of `w` as the word the host writes to
`CMD` next: a command exists only as that write (R33). -/
def State.withFetchWord (s : State) (nbits w : Nat) : State :=
  s.withCommand (BitVec.ofNat 32 (w % 2 ^ nbits))

end Sys2Proof.Machine
end

