-- ==== Sys2Proof/WellFormed.lean ====
section
/-! DEFINITION. Well-formedness. Every term of `Instr` is a legal command, because its only operands
are bytes (R77); what can be ill-formed is the configuration (spec/00_scope.md R4, R30, R50, R104,
R151; 93_implementation_defined.md U10, U12). -/

namespace Sys2Proof

/-- Every command the syntax can write is well-formed: a byte operand takes every value 0..255
(R77), and no other field of the word is an operand (R71 to R73). There is no check to fail. -/
def Instr.wellFormed : Instr → Bool
  | .kuzBlksz | .magBlksz | .magBlkszStd => true
  | .kuzSetkey | .magSetkey | .magSetkeyStd => true
  | .kuzEnc | .magEnc | .magEncStd => true
  | .kuzDec | .magDec | .magDecStd => true
  | .gfmul _ _ | .sub _ | .subinv _ => true
  | .padAdd | .padRem => true

/-- `48 <= DMEM_SIZE <= 2^32` (R4, R50). -/
def Config.dmemSizeOk (c : Config) : Bool := 48 ≤ c.dmemSize && c.dmemSize ≤ 2 ^ 32

/-- The 256 entries of `PI` in index order (R104). -/
def Config.piList (c : Config) : List Byte := (c.piRows.toList.map Vector.toList).flatten

/-- `PI` is a permutation of the bytes: its 256 entries are pairwise different (R30, R104, U10). -/
def Config.piOk (c : Config) : Bool := decide (c.piList.map BitVec.toNat).Nodup

/-- Each of the eight `MSB` tables is a permutation of 0..15: its 16 entries are pairwise different
(R151). -/
def Config.msbOk (c : Config) : Bool := c.msb.toList.all fun row => decide row.toList.Nodup

/-- What R4, R30 and R151 require of a configuration. -/
def Config.wellFormed (c : Config) : Bool := c.dmemSizeOk && c.piOk && c.msbOk

end Sys2Proof
end

