-- ==== Sys2Proof/Safety.lean ====
section
/-! DEFINITION. What a good state and a safe run are, in the terms the statements use. -/

namespace Sys2Proof.Machine

/-- The status registers hold values the spec lists: `ERR` is 0, 1 or 2 (R25, R221), `FAULT` is 0 to
4 (R26, R222), and `FINFO` is 0 while `FAULT` is 0 (R26). -/
def State.statusLegal (s : State) : Bool :=
  s.err ≤ 2#32 && s.fault ≤ 4#32 && (s.fault != 0 || s.finfo == 0)

/-- `DMEM` is in canonical form and lists no address at or above `DMEM_SIZE` (R50). -/
def State.dmemLegal (s : State) : Bool := s.dmem.wf && s.dmem.below s.cfg.dmemSize

/-- The invariant of the machine: a legal configuration (R4, R30), legal contents of `DMEM` and legal
status registers. It holds after reset, and every step keeps it. -/
abbrev State.Inv (s : State) : Prop :=
  s.cfg.wellFormed = true ∧ s.dmemLegal = true ∧ s.statusLegal = true

/-- The core accepts commands: it is not in the faulted state (R231). -/
abbrev State.Live (s : State) : Prop := s.fault = 0#32

/-- What the buffer checks of an `ENC` or `DEC` of block size `bs` ask for (R202, checks 2 to 4). -/
abbrev State.BlockBuffersFit (s : State) (bs : Nat) : Prop :=
  s.srcLen = bs ∧ bs ≤ s.dstLen ∧ s.srcAddr + s.srcLen ≤ s.cfg.dmemSize ∧
    s.dstAddr + s.dstLen ≤ s.cfg.dmemSize

/-- The conditions under which an `ENC` or `DEC` ends ok (R202): `valid` is the valid bit of its
cipher, `bs` the block size. -/
abbrev State.BlockReady (s : State) (valid : Bool) (bs : Nat) : Prop :=
  s.Live ∧ valid = true ∧ s.BlockBuffersFit bs

/-- `j` is the greatest index of the declared source that holds the marker 0x80 (R182). -/
abbrev State.LastMarkerAt (s : State) (j : Nat) : Prop :=
  j < s.srcLen ∧ s.byteAt (s.srcAddr + j) = 0x80#8 ∧
    ∀ k, k < s.srcLen → j < k → s.byteAt (s.srcAddr + k) ≠ 0x80#8

/-- From `s` to `t` the bytes of `v` have been stored at `addr`, and every other byte of `DMEM` is as
it was (R51, R55). -/
def Stores (s t : State) (addr : Nat) (v : List Byte) : Prop :=
  (∀ i (h : i < v.length), t.byteAt (addr + i) = v[i]) ∧
    ∀ a, a < addr ∨ addr + v.length ≤ a → t.byteAt a = s.byteAt a

/-- Every request of the script is a host action, naming existing bytes of `DMEM` only (R80, D34): the
condition under which a run never stops. -/
abbrev State.ScriptLegal (s : State) : Prop :=
  ∀ r ∈ s.script, r.inInterface s.cfg.dmemSize = true

/-- How many bytes a command stores from `DST_ADDR` on when it ends ok, 0 where it stores none
(R55). -/
def State.storedLen (s : State) : Instr → Nat
  | .kuzEnc | .kuzDec => 16
  | .magEnc | .magEncStd | .magDec | .magDecStd => 8
  | .padAdd => s.paddedLen
  | .kuzBlksz | .magBlksz | .magBlkszStd => 0
  | .kuzSetkey | .magSetkey | .magSetkeyStd => 0
  | .gfmul _ _ | .sub _ | .subinv _ => 0
  | .padRem => 0

end Sys2Proof.Machine

namespace Sys2Proof

/-- The commands that produce a numeric result in `x[5]` (R22). -/
def Instr.hasResult : Instr → Bool
  | .kuzBlksz | .magBlksz | .magBlkszStd => true
  | .gfmul _ _ | .sub _ | .subinv _ => true
  | .padAdd | .padRem => true
  | .kuzSetkey | .magSetkey | .magSetkeyStd => false
  | .kuzEnc | .magEnc | .magEncStd => false
  | .kuzDec | .magDec | .magDecStd => false

/-- The commands of the Kuznyechik cipher (R71). -/
def Instr.isKuz : Instr → Bool
  | .kuzBlksz | .kuzSetkey | .kuzEnc | .kuzDec => true
  | .magBlksz | .magBlkszStd | .magSetkey | .magSetkeyStd => false
  | .magEnc | .magEncStd | .magDec | .magDecStd => false
  | .gfmul _ _ | .sub _ | .subinv _ | .padAdd | .padRem => false

/-- The commands of the Magma cipher, with and without the wrapper (R71). -/
def Instr.isMag : Instr → Bool
  | .magBlksz | .magBlkszStd | .magSetkey | .magSetkeyStd => true
  | .magEnc | .magEncStd | .magDec | .magDecStd => true
  | .kuzBlksz | .kuzSetkey | .kuzEnc | .kuzDec => false
  | .gfmul _ _ | .sub _ | .subinv _ | .padAdd | .padRem => false

end Sys2Proof

namespace Sys2Proof.Machine

/-- The rule of a block command (R136, R137, R163, R164, R166, R167): command `i` with the word `w`,
block size `n`, valid bit `valid` and transform `f`, on a core that is not faulted. Without a key it
raises `KeyNotLoaded`, whatever the buffers are; with a key and buffers that do not fit it raises
`BoundsFault`; otherwise it stores the transform of the source block at the destination and writes
`ERR <- 0`. Nothing else changes. -/
def BlockCommandRule (i : Instr) (w : Word) (n : Nat) (valid : State → Bool)
    (f : State → Bytes n → Bytes n) : Prop :=
  encode i = w ∧ ∀ s : State, s.Live →
    (valid s = false → exec i s = .next { s with fault := 2, finfo := w }) ∧
    (valid s = true → ¬ s.BlockBuffersFit n → exec i s = .next { s with fault := 3, finfo := w }) ∧
    (valid s = true → s.BlockBuffersFit n → ∃ t, exec i s = .next t ∧
      t = { s with dmem := t.dmem, err := 0 } ∧
      Stores s t s.dstAddr (f s (s.readBlock n)).toList)

/-- The rule of a `SETKEY` command (R135, R162, R165): command `i` with the word `w`, where `load` is
the state with the context of the key read from `DMEM`, on a core that is not faulted. A length other
than 32 is the error `InvalidKeySize`, whatever the address is; a key that does not lie inside `DMEM`
is a `BoundsFault`; otherwise the context is loaded and `ERR <- 0`. Nothing else changes. -/
def SetkeyCommandRule (i : Instr) (w : Word) (load : State → State) : Prop :=
  encode i = w ∧ ∀ s : State, s.Live →
    (s.srcLen ≠ 32 → exec i s = .next { s with err := 1 }) ∧
    (s.srcLen = 32 → s.cfg.dmemSize < s.srcAddr + 32 →
      exec i s = .next { s with fault := 3, finfo := w }) ∧
    (s.srcLen = 32 → s.srcAddr + 32 ≤ s.cfg.dmemSize → exec i s = .next (load s))

/-- `u` differs from `s` at most in a key bank whose valid bit is 0 (R35: such a bank is
unspecified). -/
def SameButInvalidBanks (s u : State) : Prop :=
  u = { s with kuzRk := u.kuzRk, magK := u.magK } ∧
    (s.kv = true → u.kuzRk = s.kuzRk) ∧ (s.mv = true → u.magK = s.magK)

end Sys2Proof.Machine
end

