-- ==== Sys2Proof/Certificates/Slice0/Obligations.lean ====
section
/-! DEFINITION. The statements for the provers. Each docstring names the rules of spec/ it
formalises. The names of the model are written as in Sys2Proof/Machine/ and Sys2Proof/Safety.lean.
A clause about `defaultConfig` is one of the spec's worked examples with its default tables, which the
spec gives from general knowledge and the model carries as configuration (log entry 2, PRESUMED). -/

namespace Sys2Proof.Field

/-- The polynomial over GF(2) a byte stands for: bit `i` is the coefficient of `x^i` (R100). -/
noncomputable def bytePoly (a : Byte) : Polynomial (ZMod 2) :=
  ∑ i ∈ Finset.range 8, if a.getLsbD i then Polynomial.X ^ i else 0

/-- `p(x) = x^8 + x^7 + x^6 + x + 1` (R100). -/
noncomputable def modulus : Polynomial (ZMod 2) :=
  Polynomial.X ^ 8 + Polynomial.X ^ 7 + Polynomial.X ^ 6 + Polynomial.X + 1

end Sys2Proof.Field

open Sys2Proof Sys2Proof.Machine Sys2Proof.Field

/-! ### The command word (spec/30_encoding.md) -/

/-- Decoding the encoder's word of a command gives the command back, with every operand byte at every
value: all 66,062 legal commands (R74, R75). -/
def Obligations.DecodeOfEncode : Prop := ∀ i : Instr, decode (encode i) = .ok i

/-- A word that decodes to a command is the encoder's word of that command: each command has one word
(R74, R75). -/
def Obligations.EncodeOfDecode : Prop :=
  ∀ (w : Word) (i : Instr), decode w = .ok i → encode i = w

/-- R74: the 17 rows of the opcode map with their `match` and `mask`; a word selects a command exactly
when it agrees with the `match` of the command's row under the `mask`, its operand bytes being the
fields `A` and `B`; and no two rows match the same word. -/
def Obligations.RowSelectsCommand : Prop :=
  (∀ a b : Byte, ∀ r ∈ [
      (Instr.kuzBlksz,   0x00000001#32, 0xFFFFFFFF#32), (.magBlksz,     0x00000101, 0xFFFFFFFF),
      (.magBlkszStd,     0x00000501, 0xFFFFFFFF), (.kuzSetkey,    0x00000002, 0xFFFFFFFF),
      (.magSetkey,       0x00000102, 0xFFFFFFFF), (.magSetkeyStd, 0x00000502, 0xFFFFFFFF),
      (.kuzEnc,          0x00000003, 0xFFFFFFFF), (.magEnc,       0x00000103, 0xFFFFFFFF),
      (.magEncStd,       0x00000503, 0xFFFFFFFF), (.kuzDec,       0x00000004, 0xFFFFFFFF),
      (.magDec,          0x00000104, 0xFFFFFFFF), (.magDecStd,    0x00000504, 0xFFFFFFFF),
      (.gfmul a b,       0x00000010, 0x0000FFFF), (.sub a,        0x00000011, 0xFF00FFFF),
      (.subinv a,        0x00000012, 0xFF00FFFF), (.padAdd,       0x00000020, 0xFFFFFFFF),
      (.padRem,          0x00000021, 0xFFFFFFFF)],
    rowMatch r.1 = r.2.1 ∧ rowMask r.1 = r.2.2) ∧
  (∀ (w : Word) (i : Instr),
    decode w = .ok i ↔ w &&& rowMask i = rowMatch i ∧ i.readOperands w = i) ∧
  ∀ (w : Word) (i j : Instr), w &&& rowMask i = rowMatch i → w &&& rowMask j = rowMatch j →
    i.mnemonic = j.mnemonic

/-- R76: which words decode to no command, that each of them, written to `CMD` of a core that is not
faulted, records `IllegalCommand` and the word and changes nothing else, and that 66,062 of the 2^32
words are legal. -/
def Obligations.IllegalWords : Prop :=
  (∀ w : Word, (∃ r, decode w = .error r) ↔
    (fieldOp w ∉ [0x01#8, 0x02#8, 0x03#8, 0x04#8, 0x10#8, 0x11#8, 0x12#8, 0x20#8, 0x21#8]) ∨
    (fieldOp w ∈ [0x01#8, 0x02#8, 0x03#8, 0x04#8] ∧
      (fieldZ w ≠ 0 ∨ fieldA w ≠ 0 ∨ fieldB w ≠ 0 ∨ 2 ≤ (fieldCiph w).toNat ∨
        (fieldStd w = 1 ∧ fieldCiph w ≠ 1))) ∨
    (fieldOp w = 0x10#8 ∧ w.extractLsb' 8 8 ≠ 0) ∨
    (fieldOp w ∈ [0x11#8, 0x12#8] ∧ (w.extractLsb' 8 8 ≠ 0 ∨ fieldB w ≠ 0)) ∨
    (fieldOp w ∈ [0x20#8, 0x21#8] ∧ w.extractLsb' 8 24 ≠ 0)) ∧
  (∀ (s : State) (w : Word) (r : Illegal) (rest : List HostRequest),
    s.Live → s.script = .wr .cmd w :: rest → decode w = .error r →
    step s = .next { s.advance rest with fault := 1, finfo := w }) ∧
  ((Finset.range (2 ^ 32)).filter fun n => (decode (BitVec.ofNat 32 n)).isOk).card = 66062

/-- Sample words written out from the opcode map decode to the commands they stand for, one or more of
each family (R74; a sanity statement). -/
def Obligations.SampleWordsDecode : Prop :=
  decode 0x00000001#32 = .ok .kuzBlksz ∧ decode 0x00000502#32 = .ok .magSetkeyStd ∧
  decode 0x00000003#32 = .ok .kuzEnc ∧ decode 0x00000104#32 = .ok .magDec ∧
  decode 0x80020010#32 = .ok (.gfmul 0x02 0x80) ∧ decode 0x00FF0011#32 = .ok (.sub 0xFF) ∧
  decode 0x00FC0012#32 = .ok (.subinv 0xFC) ∧ decode 0x00000020#32 = .ok .padAdd ∧
  decode 0x00000021#32 = .ok .padRem

/-! ### The host port and the step (spec/10_state.md, spec/20_memory.md, spec/30_encoding.md) -/

/-- When the next host action writes to `CMD` a word that decodes to `i`, the step is `exec i` on the
state in which that action has been taken off the script and the host's index has advanced by 1
(R23, R33, R200). -/
def Obligations.StepRunsDecodedCommand : Prop :=
  ∀ (s : State) (w : Word) (i : Instr) (rest : List HostRequest),
    s.script = .wr .cmd w :: rest → decode w = .ok i →
    step s = exec i { s with script := rest, index := s.index + 1 }

/-- R34: which register each number names, and that no other number names one; a host write stores in `x[0]..x[4]` and is ignored for `x[5]`,
`STATUS`, `ERR`, `FAULT`, `FINFO`; a host read returns the register's value (0 for `CMD`, which is
R23's) and changes nothing but what the host holds. All of it in every state, faulted or not, except that a write to
`CMD` in the faulted state does nothing. The fields `script`, `index` and `replies`, which stand for
the host, are the model's own (log entry 6). -/
def Obligations.HostRegisterAccess : Prop :=
  (HostReg.x0.number = 0 ∧ HostReg.x1.number = 1 ∧ HostReg.x2.number = 2 ∧ HostReg.x3.number = 3 ∧
    HostReg.x4.number = 4 ∧ HostReg.x5.number = 5 ∧ HostReg.cmd.number = 8 ∧
    HostReg.status.number = 9 ∧ HostReg.err.number = 10 ∧ HostReg.fault.number = 11 ∧
    HostReg.finfo.number = 12) ∧
  (∀ r : HostReg, HostReg.ofNumber? r.number = some r) ∧
  (∀ n r, HostReg.ofNumber? n = some r → r.number = n) ∧
  (HostReg.ofNumber? 6 = none ∧ HostReg.ofNumber? 7 = none ∧
    ∀ n, 13 ≤ n → HostReg.ofNumber? n = none) ∧
  ∀ (s : State) (rest : List HostRequest),
    (∀ v, s.script = .wr .x0 v :: rest → step s = .next { s.advance rest with x0 := v }) ∧
    (∀ v, s.script = .wr .x1 v :: rest → step s = .next { s.advance rest with x1 := v }) ∧
    (∀ v, s.script = .wr .x2 v :: rest → step s = .next { s.advance rest with x2 := v }) ∧
    (∀ v, s.script = .wr .x3 v :: rest → step s = .next { s.advance rest with x3 := v }) ∧
    (∀ v, s.script = .wr .x4 v :: rest → step s = .next { s.advance rest with x4 := v }) ∧
    (∀ v r, r ∈ [HostReg.x5, HostReg.status, HostReg.err, HostReg.fault, HostReg.finfo] →
      s.script = .wr r v :: rest → step s = .next (s.advance rest)) ∧
    (∀ r v, (r, v) ∈ [(HostReg.x0, s.x0), (HostReg.x1, s.x1), (HostReg.x2, s.x2),
        (HostReg.x3, s.x3), (HostReg.x4, s.x4), (HostReg.x5, s.x5), (HostReg.cmd, 0),
        (HostReg.status, s.status), (HostReg.err, s.err), (HostReg.fault, s.fault),
        (HostReg.finfo, s.finfo)] →
      s.script = .rd r :: rest →
      step s = .next { s.advance rest with replies := s.replies ++ [.word v] }) ∧
    ∀ w, s.fault ≠ 0 → s.script = .wr .cmd w :: rest → step s = .next (s.advance rest)

/-- The pseudo-instructions `SRC` and `DST` (R79): each is two register writes, after which the two
operand registers hold the address and the length. -/
def Obligations.PseudoInstructions : Prop :=
  ∀ (s : State) (addr len : Word) (rest : List HostRequest),
    (s.script = pseudoSrc addr len ++ rest → ∃ t, step s = .next t ∧
      step t = .next { s with x0 := addr, x1 := len, script := rest, index := s.index + 2 }) ∧
    (s.script = pseudoDst addr len ++ rest → ∃ t, step s = .next t ∧
      step t = .next { s with x2 := addr, x3 := len, script := rest, index := s.index + 2 })

/-- The memory actions of the host (R80): an `MW` inside `DMEM` stores its bytes and changes nothing
else; an `MR` inside `DMEM` returns the bytes there and changes nothing of the core; outside `DMEM`
neither is a host action and the model refuses the request (D34, U6; log entry 7). In every state,
faulted or not. -/
def Obligations.HostMemoryAccess : Prop :=
  ∀ (s : State) (rest : List HostRequest) (a : Nat),
    (∀ bs, s.script = .mw a bs :: rest → a + bs.length ≤ s.cfg.dmemSize →
      ∃ t, step s = .next t ∧ t = { s.advance rest with dmem := t.dmem } ∧ Stores s t a bs) ∧
    (∀ n, s.script = .mr a n :: rest → a + n ≤ s.cfg.dmemSize →
      ∃ bs : List Byte, bs.length = n ∧ (∀ i (h : i < bs.length), bs[i] = s.byteAt (a + i)) ∧
        step s = .next { s.advance rest with replies := s.replies ++ [.bytes bs] }) ∧
    (∀ bs, s.script = .mw a bs :: rest → s.cfg.dmemSize < a + bs.length →
      step s = .refused .hostAddressOutsideDmem) ∧
    ∀ n, s.script = .mr a n :: rest → s.cfg.dmemSize < a + n →
      step s = .refused .hostAddressOutsideDmem

/-- R250: `RESET`, in every state the faulted one included, puts every operand and status register at
0 and both valid bits at 0. (The banks and `DMEM` are unspecified: the statement says nothing of
them.) The parameters, and what the host holds but for its position, stay. -/
def Obligations.ResetActionClears : Prop :=
  ∀ (s : State) (rest : List HostRequest), s.script = .reset :: rest →
    ∃ t, step s = .next t ∧ t.x0 = 0 ∧ t.x1 = 0 ∧ t.x2 = 0 ∧ t.x3 = 0 ∧ t.x4 = 0 ∧ t.x5 = 0 ∧
      t.err = 0 ∧ t.fault = 0 ∧ t.finfo = 0 ∧ t.kv = false ∧ t.mv = false ∧ t.status = 0 ∧
      t.cfg = s.cfg ∧ t.script = rest ∧ t.index = s.index + 1 ∧ t.replies = s.replies

/-- The values R35 gives the registers and flags after reset. -/
def Obligations.RegistersAfterReset : Prop :=
  State.reset.x0 = 0 ∧ State.reset.x1 = 0 ∧ State.reset.x2 = 0 ∧ State.reset.x3 = 0 ∧
  State.reset.x4 = 0 ∧ State.reset.x5 = 0 ∧ State.reset.err = 0 ∧ State.reset.fault = 0 ∧
  State.reset.finfo = 0 ∧ State.reset.kv = false ∧ State.reset.mv = false ∧ State.reset.status = 0

/-- R24: a read of `STATUS` gives `KV` in bit 0, `MV` in bit 1, `FAULT != 0` in bit 2 and 0 in bits
31:3; a host write to it is ignored. -/
def Obligations.StatusView : Prop :=
  ∀ s : State,
    (s.readReg .status).getLsbD 0 = s.kv ∧ (s.readReg .status).getLsbD 1 = s.mv ∧
    (s.readReg .status).getLsbD 2 = decide (s.fault ≠ 0) ∧
    (∀ i, 3 ≤ i → (s.readReg .status).getLsbD i = false) ∧
    ∀ v, s.writeReg v .status = .next s

/-- The host's index is at 0 after reset, and every step that performs an action takes that action off
the script and advances the index by exactly 1, whatever the action's outcome; with no action to come
nothing happens (R33). -/
def Obligations.IndexAdvancesByOne : Prop :=
  State.reset.index = 0 ∧
  ∀ s t : State, step s = .next t →
    (s.script = [] → t = s) ∧
    (s.script ≠ [] → t.index = s.index + 1 ∧ t.script = s.script.tail)

/-- A host that acts inside the interface never stops the machine: from every state whose script names
existing bytes only, every number of steps gives a state, and no command is a way to stop (R9, R80,
R233). -/
def Obligations.RunInsideInterfaceNeverStops : Prop :=
  ∀ (n : Nat) (s : State), s.ScriptLegal →
    ∃ t : State, Sys2Proof.core.run n s = .next t ∧ t.ScriptLegal

/-! ### The faulted state and the outcomes of a command (spec/60_exceptions.md) -/

/-- R233: every command of a core that is not faulted ends, and precisely: ok, with `ERR = 0` and
`FAULT`, `FINFO` as they were; or in an error, with `ERR` changed to 1 or 2 and nothing else; or in a
fault, with `FAULT` at 2, 3 or 4, `FINFO` at the command's word and nothing else changed. -/
def Obligations.CommandOutcomesPrecise : Prop :=
  ∀ (i : Instr) (s : State), s.Live → ∃ t, exec i s = .next t ∧
    ((t.err = 0 ∧ t.fault = 0 ∧ t.finfo = s.finfo) ∨
      (∃ c ∈ [1#32, 2#32], t = { s with err := c }) ∨
      (∃ c ∈ [2#32, 3#32, 4#32], t = { s with fault := c, finfo := encode i }))

/-- R231: in the faulted state every write to `CMD`, and so every command, is ignored whatever the
word; register reads, writes to `x[0]..x[4]` and reads and writes of `DMEM` work as usual; no step but
`RESET` changes `FAULT`, `FINFO`, `ERR`, the valid bits or the banks; and `RESET` leaves the state and
clears both contexts. -/
def Obligations.FaultedStateIgnoresCommands : Prop :=
  ∀ s : State, s.fault ≠ 0 →
    (∀ i, exec i s = .next s) ∧
    (∀ rest,
      (∀ w, s.script = .wr .cmd w :: rest → step s = .next (s.advance rest)) ∧
      (∀ v, s.script = .wr .x0 v :: rest → step s = .next { s.advance rest with x0 := v }) ∧
      (∀ v, s.script = .wr .x1 v :: rest → step s = .next { s.advance rest with x1 := v }) ∧
      (∀ v, s.script = .wr .x2 v :: rest → step s = .next { s.advance rest with x2 := v }) ∧
      (∀ v, s.script = .wr .x3 v :: rest → step s = .next { s.advance rest with x3 := v }) ∧
      (∀ v, s.script = .wr .x4 v :: rest → step s = .next { s.advance rest with x4 := v }) ∧
      (∀ r, s.script = .rd r :: rest →
        step s = .next { s.advance rest with replies := s.replies ++ [.word (s.readReg r)] }) ∧
      (∀ a bs, s.script = .mw a bs :: rest → a + bs.length ≤ s.cfg.dmemSize →
        ∃ t, step s = .next t ∧ t = { s.advance rest with dmem := t.dmem } ∧ Stores s t a bs) ∧
      (∀ a n, s.script = .mr a n :: rest → a + n ≤ s.cfg.dmemSize →
        ∃ bs : List Byte, bs.length = n ∧ (∀ i (h : i < bs.length), bs[i] = s.byteAt (a + i)) ∧
          step s = .next { s.advance rest with replies := s.replies ++ [.bytes bs] }) ∧
      (s.script = .reset :: rest →
        ∃ t, step s = .next t ∧ t.fault = 0 ∧ t.kv = false ∧ t.mv = false)) ∧
    ∀ t, step s = .next t → (∀ rest, s.script ≠ .reset :: rest) →
      t.fault = s.fault ∧ t.finfo = s.finfo ∧ t.err = s.err ∧ t.kv = s.kv ∧ t.mv = s.mv ∧
        t.kuzRk = s.kuzRk ∧ t.magK = s.magK

/-! ### Invariants -/

/-- The invariant holds right after reset. It rests on the default configuration, which the model
chose (log entries 2 and 3). -/
def Obligations.InvariantAtReset : Prop := State.reset.Inv

/-- Every step keeps the invariant: the configuration is legal, `DMEM` is in canonical form inside
`DMEM_SIZE`, and `ERR`, `FAULT`, `FINFO` hold values the spec lists (R25, R26, R50). -/
def Obligations.StepKeepsInvariant : Prop :=
  ∀ s t : State, s.Inv → step s = .next t → t.Inv

/-- No command and no host action changes a table or any other parameter (R30, R107). -/
def Obligations.TablesNeverChange : Prop := ∀ s t : State, step s = .next t → t.cfg = s.cfg

/-- The operand registers change only by the host's own write or by `RESET`, to the value written or
to 0 (R21). -/
def Obligations.OperandRegistersBelongToHost : Prop :=
  ∀ s t : State, step s = .next t →
    (t.x0 = s.x0 ∨ (∃ rest, s.script = .wr .x0 t.x0 :: rest) ∨
      ∃ rest, s.script = .reset :: rest ∧ t.x0 = 0) ∧
    (t.x1 = s.x1 ∨ (∃ rest, s.script = .wr .x1 t.x1 :: rest) ∨
      ∃ rest, s.script = .reset :: rest ∧ t.x1 = 0) ∧
    (t.x2 = s.x2 ∨ (∃ rest, s.script = .wr .x2 t.x2 :: rest) ∨
      ∃ rest, s.script = .reset :: rest ∧ t.x2 = 0) ∧
    (t.x3 = s.x3 ∨ (∃ rest, s.script = .wr .x3 t.x3 :: rest) ∨
      ∃ rest, s.script = .reset :: rest ∧ t.x3 = 0) ∧
    (t.x4 = s.x4 ∨ (∃ rest, s.script = .wr .x4 t.x4 :: rest) ∨
      ∃ rest, s.script = .reset :: rest ∧ t.x4 = 0)

/-- The Kuznyechik context changes only by a `KUZ.SETKEY` that ends ok, which writes all ten entries
and sets `KV`, or by `RESET`, which clears `KV` (R27, R36). -/
def Obligations.KuzContextWrittenBySetkeyOnly : Prop :=
  ∀ s t : State, step s = .next t → (t.kuzRk ≠ s.kuzRk ∨ t.kv ≠ s.kv) →
    (∃ rest, s.script = .reset :: rest ∧ t.kv = false) ∨
    (∃ rest, s.script = .wr .cmd (encode .kuzSetkey) :: rest ∧ s.srcLen = 32 ∧ t.err = 0 ∧
      t.kv = true ∧ t.kuzRk = kuzSchedule s.cfg s.readKey)

/-- The Magma context changes only by a `MAG.SETKEY` or `MAG.SETKEY.STD` that ends ok, which writes
all eight words and sets `MV`, or by `RESET`, which clears `MV` (R28, R36). -/
def Obligations.MagContextWrittenBySetkeyOnly : Prop :=
  ∀ s t : State, step s = .next t → (t.magK ≠ s.magK ∨ t.mv ≠ s.mv) →
    (∃ rest, s.script = .reset :: rest ∧ t.mv = false) ∨
    (∃ rest, s.script = .wr .cmd (encode .magSetkey) :: rest ∧ s.srcLen = 32 ∧ t.err = 0 ∧
      t.mv = true ∧ t.magK = magKeyWords s.readKey) ∨
    (∃ rest, s.script = .wr .cmd (encode .magSetkeyStd) :: rest ∧ s.srcLen = 32 ∧ t.err = 0 ∧
      t.mv = true ∧ t.magK = magKeyWords (wordrev s.readKey))

/-- `x[5]` changes only by a command that produces a number and ends ok (R22), or by `RESET`, to 0
(R250). -/
def Obligations.ResultWrittenOnOkOnly : Prop :=
  ∀ s t : State, step s = .next t → t.x5 ≠ s.x5 →
    (∃ rest, s.script = .reset :: rest ∧ t.x5 = 0) ∨
    ∃ (i : Instr) (rest : List HostRequest), s.script = .wr .cmd (encode i) :: rest ∧
      i.hasResult = true ∧ t.err = 0 ∧ t.fault = 0

/-- The frame of every command on `DMEM`: every byte outside the `n` bytes from `DST_ADDR` on reads as
before, where `n` is 16 for the Kuznyechik block commands, 8 for the Magma ones, the padded length for
`PAD.ADD` and 0 for all others (R55). -/
def Obligations.CommandDmemFrame : Prop :=
  ∀ (i : Instr) (s t : State), exec i s = .next t →
    ∀ a, a < s.dstAddr ∨ s.dstAddr + s.storedLen i ≤ a → t.byteAt a = s.byteAt a

/-- Key material that reset leaves unspecified is never observed: two states that differ only in banks
whose valid bits are 0 step to two states that again differ only so, and are refused alike (there is no
third outcome), so every register, every byte of `DMEM` and every reply to the host is the same (R35,
R251). -/
def Obligations.InvalidBanksUnobservable : Prop :=
  ∀ s u : State, SameButInvalidBanks s u →
    (∀ t, step s = .next t → ∃ v, step u = .next v ∧ SameButInvalidBanks t v) ∧
    ∀ r, step s = .refused r → step u = .refused r

/-- The two contexts are independent: no Kuznyechik command reads or writes `MV` or `MAG_K`, and no
Magma command reads or writes `KV` or `KUZ_RK` (R29). -/
def Obligations.ContextsIndependent : Prop :=
  ∀ (i : Instr) (s t : State), exec i s = .next t →
    (i.isKuz = true → ∀ b k, exec i { s with mv := b, magK := k }
      = .next { t with mv := b, magK := k }) ∧
    (i.isMag = true → ∀ b rk, exec i { s with kv := b, kuzRk := rk }
      = .next { t with kv := b, kuzRk := rk })

/-- What a block command stores is a function of the command, the tables its cipher reads, the context
and the source block, and of nothing else: not of the addresses, of earlier blocks, of any other
register or of the size of `DMEM` (R207). -/
def Obligations.OutputDependsOnKeyAndBlockOnly : Prop :=
  ∀ (s u t v : State),
    (∀ i ∈ [Instr.kuzEnc, Instr.kuzDec], s.BlockReady s.kv 16 → u.BlockReady u.kv 16 →
      s.cfg.piRows = u.cfg.piRows → s.cfg.lvec = u.cfg.lvec →
      s.kuzRk = u.kuzRk → s.readBlock 16 = u.readBlock 16 →
      exec i s = .next t → exec i u = .next v →
      t.memRead s.dstAddr 16 = v.memRead u.dstAddr 16) ∧
    ∀ i ∈ [Instr.magEnc, Instr.magDec, Instr.magEncStd, Instr.magDecStd],
      s.BlockReady s.mv 8 → u.BlockReady u.mv 8 →
      s.cfg.msb = u.cfg.msb → s.magK = u.magK → s.readBlock 8 = u.readBlock 8 →
      exec i s = .next t → exec i u = .next v →
      t.memRead s.dstAddr 8 = v.memRead u.dstAddr 8

/-! ### Memory (spec/20_memory.md) -/

/-- R51: `MemRead(addr, n)` is the `n` bytes from `addr` on; `MemWrite` stores its bytes from `addr` on
and changes no other byte and nothing else; with `n = 0` the one is empty and the other changes
nothing. The key a `SETKEY` reads is the 32 bytes from `x[0]` on (R201), the block an `ENC` or `DEC` of
block size `n` reads the `n` bytes from `x[0]` on (R202). -/
def Obligations.MemoryPrimitives : Prop :=
  ∀ (s : State) (addr : Nat),
    (∀ n, (s.memRead addr n).length = n ∧
      ∀ i (h : i < (s.memRead addr n).length), (s.memRead addr n)[i] = s.byteAt (addr + i)) ∧
    (∀ v : List Byte, Stores s (s.memWrite addr v) addr v ∧
      s.memWrite addr v = { s with dmem := (s.memWrite addr v).dmem }) ∧
    s.memRead addr 0 = [] ∧ s.memWrite addr [] = s ∧
    (∀ i (h : i < 32), s.readKey[i] = s.byteAt (s.x0.toNat + i)) ∧
    ∀ n i (h : i < n), (s.readBlock n)[i] = s.byteAt (s.x0.toNat + i)

/-- The names the other statements use for the operands are the registers of R21 as natural numbers,
and the range check is R57's, over the natural numbers with no wrap. -/
def Obligations.OperandsAreRegisters : Prop :=
  ∀ s : State,
    (s.srcAddr = s.x0.toNat ∧ s.srcLen = s.x1.toNat ∧ s.dstAddr = s.x2.toNat ∧
      s.dstLen = s.x3.toNat ∧ s.padBs = s.x4.toNat) ∧
    (∀ addr n, s.inRange addr n = true ↔ addr + n ≤ s.cfg.dmemSize) ∧
    (s.srcInRange = true ↔ s.x0.toNat + s.x1.toNat ≤ s.cfg.dmemSize) ∧
    (s.dstInRange = true ↔ s.x2.toNat + s.x3.toNat ≤ s.cfg.dmemSize)

/-! ### The commands -/

/-- R203, R204: `KUZ.BLKSZ` and `MAG.BLKSZ` write their constant to `x[5]` and 0 to `ERR` and change
nothing else; they need no key. -/
def Obligations.BlockSizeCommands : Prop :=
  encode .kuzBlksz = 0x00000001 ∧ encode .magBlksz = 0x00000101 ∧
  ∀ s : State, s.Live →
    exec .kuzBlksz s = .next { s with x5 := 16, err := 0 } ∧
    exec .magBlksz s = .next { s with x5 := 8, err := 0 }

/-- `MAG.BLKSZ.STD` leaves exactly the state `MAG.BLKSZ` leaves: 8 in `x[5]`, 0 in `ERR`, nothing else
changed. That the wrapper keeps the value is the spec's own inference (R205, from R161). -/
def Obligations.WrapperBlockSizeCommand : Prop :=
  encode .magBlkszStd = 0x00000501 ∧
  ∀ s : State, s.Live →
    exec .magBlkszStd s = .next { s with x5 := 8, err := 0 } ∧ exec .magBlkszStd s = exec .magBlksz s

/-- R110: `GFMUL a, b` writes the product, zero-extended, to `x[5]` and 0 to `ERR` and changes nothing
else; its word; that a word of its `OP` with bits 15:8 not 0 is illegal; that a faulted core ignores
it; and its corner cases. -/
def Obligations.GfmulCommand : Prop :=
  (∀ (a b : Byte) (s : State), s.Live →
    exec (.gfmul a b) s = .next { s with x5 := (gfmul a b).setWidth 32, err := 0 }) ∧
  (∀ (a b : Byte) (s : State), s.fault ≠ 0 → exec (.gfmul a b) s = .next s) ∧
  (∀ a b : Byte, (encode (.gfmul a b)).toNat = 0x00000010 + 2 ^ 16 * a.toNat + 2 ^ 24 * b.toNat) ∧
  (∀ w : Word, fieldOp w = 0x10#8 → w.extractLsb' 8 8 ≠ 0 → ∃ r, decode w = .error r) ∧
  (∀ a b : Byte, gfmul 0 b = 0 ∧ gfmul a 0 = 0 ∧ gfmul 1 b = b ∧ gfmul a b = gfmul b a) ∧
  gfmul 0x02 0x80 = 0xC3 ∧ gfmul 0x94 0x94 = 0xA4

/-- R111 and R112: `SUB a` and `SUBINV a` write the table byte, zero-extended, to `x[5]` and 0 to `ERR`
and change nothing else; their words; that a word of their `OP` with bits 15:8 or 31:24 not 0 is
illegal; that entry `a` of `PI` stands in row `a div 16`, column `a mod 16` (R104); that `SUBINV` of the
result of `SUB` returns the operand; and the examples. -/
def Obligations.SubstitutionCommands : Prop :=
  (∀ (a : Byte) (s : State), s.Live →
    exec (.sub a) s = .next { s with x5 := (substitute s.cfg a).setWidth 32, err := 0 } ∧
    exec (.subinv a) s = .next { s with x5 := (inverseSubstitute s.cfg a).setWidth 32, err := 0 }) ∧
  (∀ a : Byte, (encode (.sub a)).toNat = 0x00000011 + 2 ^ 16 * a.toNat ∧
    (encode (.subinv a)).toNat = 0x00000012 + 2 ^ 16 * a.toNat) ∧
  (∀ w : Word, fieldOp w = 0x11#8 ∨ fieldOp w = 0x12#8 →
    w.extractLsb' 8 8 ≠ 0 ∨ w.extractLsb' 24 8 ≠ 0 → ∃ r, decode w = .error r) ∧
  (∀ (c : Config) (a : Byte), (c.piRows[a.toNat / 16]?.bind fun row => row[a.toNat % 16]?)
    = some (substitute c a)) ∧
  (∀ (c : Config) (a : Byte), c.piOk = true → inverseSubstitute c (substitute c a) = a) ∧
  substitute defaultConfig 0x00 = 0xFC ∧ substitute defaultConfig 0xFF = 0xB6 ∧
  inverseSubstitute defaultConfig 0xFC = 0x00 ∧ inverseSubstitute defaultConfig 0x00 = 0xA5

/-- R135: `KUZ.SETKEY`, with every outcome. -/
def Obligations.KuzSetkeyCommand : Prop :=
  SetkeyCommandRule .kuzSetkey 0x00000002
    fun s => { s with kuzRk := kuzSchedule s.cfg s.readKey, kv := true, err := 0 }

/-- R162 and R165: `MAG.SETKEY` and `MAG.SETKEY.STD`, with every outcome. -/
def Obligations.MagSetkeyCommands : Prop :=
  SetkeyCommandRule .magSetkey 0x00000102
    (fun s => { s with magK := magKeyWords s.readKey, mv := true, err := 0 }) ∧
  SetkeyCommandRule .magSetkeyStd 0x00000502
    fun s => { s with magK := magKeyWords (wordrev s.readKey), mv := true, err := 0 }

/-- R136 and R137: `KUZ.ENC` and `KUZ.DEC`, with every outcome. -/
def Obligations.KuzBlockCommands : Prop :=
  BlockCommandRule .kuzEnc 0x00000003 16 (fun s => s.kv) (fun s => kuzEncrypt s.cfg s.kuzRk) ∧
  BlockCommandRule .kuzDec 0x00000004 16 (fun s => s.kv) (fun s => kuzDecrypt s.cfg s.kuzRk)

/-- R163, R164, R166 and R167: the four Magma block commands, with every outcome. -/
def Obligations.MagBlockCommands : Prop :=
  BlockCommandRule .magEnc 0x00000103 8 (fun s => s.mv) (fun s => magEncrypt s.cfg s.magK) ∧
  BlockCommandRule .magDec 0x00000104 8 (fun s => s.mv) (fun s => magDecrypt s.cfg s.magK) ∧
  BlockCommandRule .magEncStd 0x00000503 8 (fun s => s.mv)
    (fun s b => reverseBytes (magEncrypt s.cfg s.magK (reverseBytes b))) ∧
  BlockCommandRule .magDecStd 0x00000504 8 (fun s => s.mv)
    (fun s b => reverseBytes (magDecrypt s.cfg s.magK (reverseBytes b)))

/-- R186: `PAD.ADD`, with every outcome: a block size of 0 faults first; buffers that do not fit the
padded length or `DMEM` fault; otherwise the padded data is stored at the destination, its length goes
to `x[5]`, `ERR` is 0 and nothing else changes. -/
def Obligations.PadAddCommand : Prop :=
  encode .padAdd = 0x00000020 ∧ ∀ s : State, s.Live →
    (s.padBs = 0 → exec .padAdd s = .next { s with fault := 4, finfo := 0x00000020 }) ∧
    (s.padBs ≠ 0 → (s.cfg.dmemSize < s.srcAddr + s.srcLen ∨ s.dstLen < padLen s.srcLen s.padBs ∨
        s.cfg.dmemSize < s.dstAddr + s.dstLen) →
      exec .padAdd s = .next { s with fault := 3, finfo := 0x00000020 }) ∧
    (s.padBs ≠ 0 → s.srcAddr + s.srcLen ≤ s.cfg.dmemSize → padLen s.srcLen s.padBs ≤ s.dstLen →
        s.dstAddr + s.dstLen ≤ s.cfg.dmemSize →
      ∃ t, exec .padAdd s = .next t ∧ t = { s with dmem := t.dmem, x5 := t.x5, err := 0 } ∧
        t.x5.toNat = padLen s.srcLen s.padBs ∧
        Stores s t s.dstAddr (addPadding (s.memRead s.srcAddr s.srcLen) s.padBs))

/-- R187: `PAD.REM`, with every outcome: a source outside `DMEM` faults; data without a marker is the
error `PaddingNotFound`; otherwise the greatest index of a marker goes to `x[5]`, `ERR` is 0 and
nothing else changes: no memory is written, and `x[2]`, `x[3]`, `x[4]` are not read. -/
def Obligations.PadRemCommand : Prop :=
  encode .padRem = 0x00000021 ∧ ∀ s : State, s.Live →
    (s.cfg.dmemSize < s.srcAddr + s.srcLen →
      exec .padRem s = .next { s with fault := 3, finfo := 0x00000021 }) ∧
    (s.srcAddr + s.srcLen ≤ s.cfg.dmemSize →
        (∀ j, j < s.srcLen → s.byteAt (s.srcAddr + j) ≠ 0x80#8) →
      exec .padRem s = .next { s with err := 2 }) ∧
    (s.srcAddr + s.srcLen ≤ s.cfg.dmemSize → ∀ j, s.LastMarkerAt j →
      ∃ t, exec .padRem s = .next t ∧ t = { s with x5 := t.x5, err := 0 } ∧ t.x5.toNat = j)

/-- Encrypting and then decrypting a block in place, with a loaded key, gives every byte of `DMEM`
back, for each cipher and convention (R134, R159, R161, R206 at the level of the commands). -/
def Obligations.InPlaceRoundTrip : Prop :=
  ∀ s t : State, s.dstAddr = s.srcAddr →
    (s.cfg.piOk = true → s.BlockReady s.kv 16 → exec .kuzEnc s = .next t →
      ∃ u, exec .kuzDec t = .next u ∧ ∀ a, u.byteAt a = s.byteAt a) ∧
    (s.BlockReady s.mv 8 → exec .magEnc s = .next t →
      ∃ u, exec .magDec t = .next u ∧ ∀ a, u.byteAt a = s.byteAt a) ∧
    (s.BlockReady s.mv 8 → exec .magEncStd s = .next t →
      ∃ u, exec .magDecStd t = .next u ∧ ∀ a, u.byteAt a = s.byteAt a)

/-! ### GF(2^8) and the tables (spec/40_gf_and_tables.md) -/

/-- R101: `xtime` as arithmetic on the number, and its examples. -/
def Obligations.XtimeRule : Prop :=
  (∀ a : Byte, (xtime a).toNat
    = if 128 ≤ a.toNat then (2 * a.toNat % 256) ^^^ 0xC3 else 2 * a.toNat % 256) ∧
  xtime 0x40 = 0x80 ∧ xtime 0x80 = 0xC3 ∧ xtime 0xC3 = 0x45 ∧ xtime 0xFF = 0x3D ∧ xtime 0x00 = 0x00

/-- R100: addition in the field is the exclusive-or, and multiplication is polynomial multiplication
over GF(2) followed by reduction modulo `p(x)`: the product byte stands for a polynomial of degree
below 8 that is congruent to the product of the polynomials. -/
def Obligations.GfmulIsFieldProduct : Prop :=
  (∀ a b : Byte, bytePoly (a ^^^ b) = bytePoly a + bytePoly b) ∧
  ∀ a b : Byte, modulus ∣ bytePoly a * bytePoly b - bytePoly (gfmul a b)

/-- The laws of the multiplication table (R103): it commutes, distributes over the exclusive-or, has a
zero and a one, every row but the zero row is a permutation, and the byte 0x02 has multiplicative
order 255. -/
def Obligations.MultiplicationTableLaws : Prop :=
  (∀ a b : Byte, gfmul a b = gfmul b a) ∧ (∀ b : Byte, gfmul 0 b = 0) ∧ (∀ b : Byte, gfmul 1 b = b) ∧
  (∀ a b c : Byte, gfmul a (b ^^^ c) = gfmul a b ^^^ gfmul a c) ∧
  (∀ a : Byte, a ≠ 0 → Function.Bijective (gfmul a)) ∧
  (gfmul 0x02)^[255] 0x01 = 0x01 ∧ ∀ n, 0 < n → n < 255 → (gfmul 0x02)^[n] 0x01 ≠ 0x01

/-- For every table `PI` that is a permutation, each of the two substitutions undoes the other, on
every byte (R105). -/
def Obligations.SubstitutionsInverse : Prop :=
  ∀ (c : Config) (v : Byte), c.piOk = true →
    inverseSubstitute c (substitute c v) = v ∧ substitute c (inverseSubstitute c v) = v

/-! ### Kuznyechik (spec/41_kuznyechik.md) -/

/-- R121 and R122: `S` replaces the byte at every index by its entry of `PI`, `Sinv` by its entry of
`PIINV`, and each undoes the other; the example of R121. -/
def Obligations.SubstitutionLayers : Prop :=
  (∀ (c : Config) (b : KuzBlock) (i : Nat) (h : i < 16),
    c.piList[b[i].toNat]? = some (kuzS c b)[i]) ∧
  (∀ (c : Config) (b : KuzBlock) (i : Nat) (h : i < 16), c.piOk = true →
    c.piList[(kuzSinv c b)[i].toNat]? = some b[i]) ∧
  (∀ (c : Config) (b : KuzBlock), c.piOk = true →
    kuzSinv c (kuzS c b) = b ∧ kuzS c (kuzSinv c b) = b) ∧
  kuzS defaultConfig #v[0xff, 0xee, 0xdd, 0xcc, 0xbb, 0xaa, 0x99, 0x88,
      0x11, 0x22, 0x33, 0x44, 0x55, 0x66, 0x77, 0x00]
    = #v[0xb6, 0x6c, 0xd8, 0x88, 0x7d, 0x38, 0xe8, 0xd7,
      0x77, 0x65, 0xae, 0xea, 0x0c, 0x9a, 0x7e, 0xfc]

/-- R123: the feedback byte, product by product; it is linear and 0 on the zero block; the
examples. -/
def Obligations.FeedbackByte : Prop :=
  (∀ (c : Config) (b : KuzBlock), kuzLfb c b =
    gfmul b[0] c.lvec[0] ^^^ gfmul b[1] c.lvec[1] ^^^ gfmul b[2] c.lvec[2] ^^^ gfmul b[3] c.lvec[3]
    ^^^ gfmul b[4] c.lvec[4] ^^^ gfmul b[5] c.lvec[5] ^^^ gfmul b[6] c.lvec[6]
    ^^^ gfmul b[7] c.lvec[7] ^^^ gfmul b[8] c.lvec[8] ^^^ gfmul b[9] c.lvec[9]
    ^^^ gfmul b[10] c.lvec[10] ^^^ gfmul b[11] c.lvec[11] ^^^ gfmul b[12] c.lvec[12]
    ^^^ gfmul b[13] c.lvec[13] ^^^ gfmul b[14] c.lvec[14] ^^^ b[15]) ∧
  (∀ (c : Config) (a b : KuzBlock), kuzLfb c (xorBytes a b) = kuzLfb c a ^^^ kuzLfb c b) ∧
  (∀ c : Config, kuzLfb c (Vector.replicate 16 0) = 0) ∧
  kuzLfb defaultConfig #v[0, 0, 0, 0, 0, 0, 0, 0, 0, 0, 0, 0, 0, 0, 1, 0] = 0x94 ∧
  kuzLfb defaultConfig (Vector.replicate 16 0xff) = 0x83

/-- R124 and R126: the forward and the inverse step of the linear layer at every index, that each
undoes the other, and their examples. -/
def Obligations.LinearSteps : Prop :=
  (∀ (c : Config) (b : KuzBlock), (kuzRstep c b)[0] = kuzLfb c b ∧
    ∀ i (h : i < 15), (kuzRstep c b)[i + 1] = b[i]) ∧
  (∀ (c : Config) (b : KuzBlock), (∀ i (h : i < 15), (kuzRinvstep c b)[i] = b[i + 1]) ∧
    (kuzRinvstep c b)[15] =
      gfmul b[1] c.lvec[0] ^^^ gfmul b[2] c.lvec[1] ^^^ gfmul b[3] c.lvec[2]
      ^^^ gfmul b[4] c.lvec[3] ^^^ gfmul b[5] c.lvec[4] ^^^ gfmul b[6] c.lvec[5]
      ^^^ gfmul b[7] c.lvec[6] ^^^ gfmul b[8] c.lvec[7] ^^^ gfmul b[9] c.lvec[8]
      ^^^ gfmul b[10] c.lvec[9] ^^^ gfmul b[11] c.lvec[10] ^^^ gfmul b[12] c.lvec[11]
      ^^^ gfmul b[13] c.lvec[12] ^^^ gfmul b[14] c.lvec[13] ^^^ gfmul b[15] c.lvec[14] ^^^ b[0]) ∧
  (∀ (c : Config) (b : KuzBlock),
    kuzRinvstep c (kuzRstep c b) = b ∧ kuzRstep c (kuzRinvstep c b) = b) ∧
  kuzRstep defaultConfig #v[0, 0, 0, 0, 0, 0, 0, 0, 0, 0, 0, 0, 0, 0, 1, 0]
    = #v[0x94, 0, 0, 0, 0, 0, 0, 0, 0, 0, 0, 0, 0, 0, 0, 1] ∧
  kuzRstep defaultConfig #v[0x94, 0, 0, 0, 0, 0, 0, 0, 0, 0, 0, 0, 0, 0, 0, 1]
    = #v[0xa5, 0x94, 0, 0, 0, 0, 0, 0, 0, 0, 0, 0, 0, 0, 0, 0] ∧
  kuzRstep defaultConfig #v[0xa5, 0x94, 0, 0, 0, 0, 0, 0, 0, 0, 0, 0, 0, 0, 0, 0]
    = #v[0x64, 0xa5, 0x94, 0, 0, 0, 0, 0, 0, 0, 0, 0, 0, 0, 0, 0] ∧
  kuzRinvstep defaultConfig #v[0x94, 0, 0, 0, 0, 0, 0, 0, 0, 0, 0, 0, 0, 0, 0, 1]
    = #v[0, 0, 0, 0, 0, 0, 0, 0, 0, 0, 0, 0, 0, 0, 1, 0] ∧
  kuzRinvstep defaultConfig #v[0, 0, 0, 0, 0, 0, 0, 0, 0, 0, 0, 0, 0, 0, 0, 1]
    = #v[0, 0, 0, 0, 0, 0, 0, 0, 0, 0, 0, 0, 0, 0, 1, 0x94]

/-- R125 and R127: `L` is 16 forward steps and linear, `Linv` is 16 inverse steps, and each undoes the
other on every block, for every configuration; their examples. -/
def Obligations.LinearLayers : Prop :=
  (∀ (c : Config) (b : KuzBlock), kuzL c b = (kuzRstep c)^[16] b ∧
    kuzLinv c b = (kuzRinvstep c)^[16] b) ∧
  (∀ (c : Config) (a b : KuzBlock), kuzL c (xorBytes a b) = xorBytes (kuzL c a) (kuzL c b)) ∧
  (∀ c : Config, kuzL c (Vector.replicate 16 0) = Vector.replicate 16 0) ∧
  (∀ (c : Config) (b : KuzBlock), kuzLinv c (kuzL c b) = b ∧ kuzL c (kuzLinv c b) = b) ∧
  kuzL defaultConfig #v[0x64, 0xa5, 0x94, 0, 0, 0, 0, 0, 0, 0, 0, 0, 0, 0, 0, 0]
    = #v[0xd4, 0x56, 0x58, 0x4d, 0xd0, 0xe3, 0xe8, 0x4c,
      0xc3, 0x16, 0x6e, 0x4b, 0x7f, 0xa2, 0x89, 0x0d] ∧
  kuzLinv defaultConfig #v[0xd4, 0x56, 0x58, 0x4d, 0xd0, 0xe3, 0xe8, 0x4c,
      0xc3, 0x16, 0x6e, 0x4b, 0x7f, 0xa2, 0x89, 0x0d]
    = #v[0x64, 0xa5, 0x94, 0, 0, 0, 0, 0, 0, 0, 0, 0, 0, 0, 0, 0]

/-- R131: the schedule starts with the two key halves, and group `g` of eight Feistel steps, with the
constants `KC[8g] .. KC[8g+7]` in rising order, takes each pair of round keys to the next; and R128:
`KC[i]` is `L` of fifteen zeros and the byte `i + 1`, for every configuration. -/
def Obligations.KeyScheduleRecurrence : Prop :=
  (∀ (c : Config) (i : Nat), i < 32 → kuzConst c i
    = kuzL c #v[0, 0, 0, 0, 0, 0, 0, 0, 0, 0, 0, 0, 0, 0, 0, BitVec.ofNat 8 (i + 1)]) ∧
  ∀ (c : Config) (key : Key),
    (kuzSchedule c key)[0].toList ++ (kuzSchedule c key)[1].toList = key.toList ∧
    ∀ g (h : g < 4),
      ((kuzSchedule c key)[2 * g + 2], (kuzSchedule c key)[2 * g + 3])
        = (List.range 8).foldl
            (fun p j => (xorBytes (kuzL c (kuzS c (xorBytes p.1 (kuzConst c (8 * g + j))))) p.2, p.1))
            ((kuzSchedule c key)[2 * g], (kuzSchedule c key)[2 * g + 1])

/-- The rounds of R132 and R133 one by one: encryption takes the block through nine rounds of key, `S`
and `L` with `RK[0] .. RK[8]`, then adds `RK[9]`; decryption takes it through nine rounds of key,
`Linv` and `Sinv` with `RK[9]` down to `RK[1]`, then adds `RK[0]`. -/
def Obligations.KuzRounds : Prop :=
  ∀ (c : Config) (rk : KuzBank) (b : KuzBlock),
    (∃ st : Nat → KuzBlock, st 0 = b ∧
      (∀ r (h : r < 9), st (r + 1) = kuzL c (kuzS c (xorBytes (st r) rk[r]))) ∧
      kuzEncrypt c rk b = xorBytes (st 9) rk[9]) ∧
    ∃ st : Nat → KuzBlock, st 0 = b ∧
      (∀ r (h : r < 9), st (r + 1) = kuzSinv c (kuzLinv c (xorBytes (st r) rk[9 - r]))) ∧
      kuzDecrypt c rk b = xorBytes (st 9) rk[0]

/-- R134: decryption undoes encryption and encryption undoes decryption, for every permutation `PI`,
every `LVEC`, every block and every bank, so for every bank `KuzSchedule` gives. -/
def Obligations.KuzRoundTrip : Prop :=
  ∀ (c : Config) (rk : KuzBank) (b : KuzBlock), c.piOk = true →
    kuzDecrypt c rk (kuzEncrypt c rk b) = b ∧ kuzEncrypt c rk (kuzDecrypt c rk b) = b

/-! ### Magma (spec/42_magma.md) -/

/-- R150: key word `i` is the little-endian reading of key bytes `4i..4i+3`; the example. -/
def Obligations.MagKeyWordsRule : Prop :=
  (∀ (key : Key) (i : Nat) (h : i < 8), (magKeyWords key)[i].toNat
    = key[4 * i].toNat + 2 ^ 8 * key[4 * i + 1].toNat + 2 ^ 16 * key[4 * i + 2].toNat
      + 2 ^ 24 * key[4 * i + 3].toNat) ∧
  magKeyWords #v[0xff, 0xee, 0xdd, 0xcc, 0xbb, 0xaa, 0x99, 0x88, 0x77, 0x66, 0x55, 0x44, 0x33, 0x22,
      0x11, 0x00, 0xf0, 0xf1, 0xf2, 0xf3, 0xf4, 0xf5, 0xf6, 0xf7, 0xf8, 0xf9, 0xfa, 0xfb, 0xfc, 0xfd,
      0xfe, 0xff]
    = #v[0xccddeeff, 0x8899aabb, 0x44556677, 0x00112233, 0xf3f2f1f0, 0xf7f6f5f4, 0xfbfaf9f8,
      0xfffefdfc]

/-- R152: nibble `i` of `t(a)` is the entry of table `MSB[i]` at nibble `i` of `a`; the examples. -/
def Obligations.NibbleSubstitution : Prop :=
  (∀ (c : Config) (a : Word) (i : Nat) (h : i < 8),
    some ((magT c a).extractLsb' (4 * i) 4) = c.msb[i][(a.toNat / 16 ^ i) % 16]?) ∧
  magT defaultConfig 0xfdb97531 = 0x2a196f34 ∧ magT defaultConfig 0x00000000 = 0x1857cb6c ∧
  magT defaultConfig 0xffffffff = 0x270cb0f1

/-- R153: the round function as arithmetic: the sum modulo 2^32, substituted, rotated left by 11; the
examples. -/
def Obligations.RoundFunction : Prop :=
  (∀ (c : Config) (k a : Word), (magG c k a).toNat
    = (magT c (BitVec.ofNat 32 ((a.toNat + k.toNat) % 2 ^ 32))).toNat * 2 ^ 11 % 2 ^ 32
      + (magT c (BitVec.ofNat 32 ((a.toNat + k.toNat) % 2 ^ 32))).toNat / 2 ^ 21) ∧
  magG defaultConfig 0x87654321 0xfedcba98 = 0xfdcbc20c ∧ magG defaultConfig 0 0 = 0xbe5b60c2 ∧
  magG defaultConfig 0xffffffff 0x00000001 = 0xbe5b60c2

/-- The 32 rounds of R154 to R158 one by one: the halves start as the little-endian words of the block,
each round takes the pair `(n1, n2)` to `(g(K[i], n1) xor n2, n1)`, the output is `n2`'s bytes and
then `n1`'s, least significant first; encryption takes the key words up three times and then down,
decryption up once and then down three times. -/
def Obligations.MagRounds : Prop :=
  ∀ (c : Config) (k : MagBank) (b : MagBlock),
    (∃ n1 n2 : Nat → Word, n1 0 = le32 b[0] b[1] b[2] b[3] ∧ n2 0 = le32 b[4] b[5] b[6] b[7] ∧
      (∀ r, r < 32 → n2 (r + 1) = n1 r ∧ n1 (r + 1) =
        magG c (k[if r < 24 then r % 8 else 7 - r % 8]'(by split <;> omega)) (n1 r) ^^^ n2 r) ∧
      (magEncrypt c k b).toList = toLe32 (n2 32) ++ toLe32 (n1 32)) ∧
    ∃ n1 n2 : Nat → Word, n1 0 = le32 b[0] b[1] b[2] b[3] ∧ n2 0 = le32 b[4] b[5] b[6] b[7] ∧
      (∀ r, r < 32 → n2 (r + 1) = n1 r ∧ n1 (r + 1) =
        magG c (k[if r < 8 then r % 8 else 7 - r % 8]'(by split <;> omega)) (n1 r) ^^^ n2 r) ∧
      (magDecrypt c k b).toList = toLe32 (n2 32) ++ toLe32 (n1 32)

/-- R159: decryption undoes encryption and encryption undoes decryption, for every configuration, every
bank and every block; nothing is asked of the tables. -/
def Obligations.MagRoundTrip : Prop :=
  ∀ (c : Config) (k : MagBank) (b : MagBlock),
    magDecrypt c k (magEncrypt c k b) = b ∧ magEncrypt c k (magDecrypt c k b) = b

/-- R160 and R161: `wordrev` at every index and the big-endian key words it leads to; the reversal of a
block at every index; the wrapped transforms and that decryption undoes encryption; the examples. -/
def Obligations.StandardByteOrder : Prop :=
  (∀ (key : Key) (i j : Nat) (hi : i < 8) (hj : j < 4),
    (wordrev key)[4 * i + j] = key[4 * i + 3 - j]) ∧
  (∀ (key : Key) (i : Nat) (h : i < 8), (magKeyWords (wordrev key))[i].toNat
    = key[4 * i].toNat * 2 ^ 24 + key[4 * i + 1].toNat * 2 ^ 16 + key[4 * i + 2].toNat * 2 ^ 8
      + key[4 * i + 3].toNat) ∧
  (∀ (b : MagBlock) (i : Nat) (h : i < 8), (reverseBytes b)[i] = b[7 - i]) ∧
  (∀ (c : Config) (k : MagBank) (b : MagBlock),
    magEncryptStd c k b = reverseBytes (magEncrypt c k (reverseBytes b)) ∧
    magDecryptStd c k b = reverseBytes (magDecrypt c k (reverseBytes b)) ∧
    magDecryptStd c k (magEncryptStd c k b) = b) ∧
  magKeyWords (wordrev #v[0xff, 0xee, 0xdd, 0xcc, 0xbb, 0xaa, 0x99, 0x88, 0x77, 0x66, 0x55, 0x44, 0x33,
      0x22, 0x11, 0x00, 0xf0, 0xf1, 0xf2, 0xf3, 0xf4, 0xf5, 0xf6, 0xf7, 0xf8, 0xf9, 0xfa, 0xfb, 0xfc,
      0xfd, 0xfe, 0xff])
    = #v[0xffeeddcc, 0xbbaa9988, 0x77665544, 0x33221100, 0xf0f1f2f3, 0xf4f5f6f7, 0xf8f9fafb,
      0xfcfdfeff] ∧
  magEncryptStd defaultConfig
      #v[0xffeeddcc, 0xbbaa9988, 0x77665544, 0x33221100, 0xf0f1f2f3, 0xf4f5f6f7, 0xf8f9fafb,
        0xfcfdfeff]
      #v[0xfe, 0xdc, 0xba, 0x98, 0x76, 0x54, 0x32, 0x10]
    = #v[0x4e, 0xe9, 0x01, 0xe5, 0xc2, 0xd8, 0xca, 0x3d]

/-! ### Padding (spec/43_padding.md) -/

/-- R180 and R181: the padded data is the data, the marker and zeros; its length is the least multiple
of the block size above the data's length, so padding is never a no-op; the corner values. -/
def Obligations.PaddingGrows : Prop :=
  (∀ (d : List Byte) (bs : Nat), 1 ≤ bs →
    addPadding d bs = d ++ [0x80#8] ++ List.replicate (padLen d.length bs - d.length - 1) 0 ∧
    (addPadding d bs).length = padLen d.length bs ∧ bs ∣ (addPadding d bs).length ∧
    d.length < (addPadding d bs).length ∧
    (∀ m, bs ∣ m → d.length < m → (addPadding d bs).length ≤ m) ∧
    (addPadding d bs).length - d.length = bs - d.length % bs) ∧
  (∀ bs, 1 ≤ bs → padLen 0 bs = bs) ∧ (∀ n, padLen n 1 = n + 1) ∧
  padLen 8 8 = 16 ∧ padLen 7 8 = 8 ∧ padLen 9 8 = 16

/-- R182: `RemovePadding` returns the bytes before the greatest index that holds the marker, and is
*not found* exactly where no byte is the marker; the examples. -/
def Obligations.RemovePaddingRule : Prop :=
  (∀ (d : List Byte) (j : Nat), d[j]? = some 0x80#8 → (∀ k, j < k → d[k]? ≠ some 0x80#8) →
    lastMarker d = some j ∧ removePadding d = some (d.take j)) ∧
  (∀ d : List Byte, removePadding d = none ↔ 0x80#8 ∉ d) ∧
  removePadding [0x80, 0x05, 0x00] = some [] ∧
  removePadding [0x11, 0x22, 0x33, 0x80, 0x44] = some [0x11, 0x22, 0x33]

/-- R183: removing the padding that `AddPadding` added gives the data back, for every data and every
block size from 1 on. -/
def Obligations.PaddingRoundTrip : Prop :=
  ∀ (d : List Byte) (bs : Nat), 1 ≤ bs → removePadding (addPadding d bs) = some d
end

