-- ==== Sys2Proof/Laws/Bytes.lean ====
section
/-! SUPPORT. The small lemmas of the byte-sequence operations (spec/00_scope.md R5 to R7). -/

namespace Sys2Proof.Machine

variable {α : Type} {n : Nat}

@[simp] theorem toList_seqOf (l : List α) (h : l.length = n) : (seqOf l h).toList = l := rfl

/-- An element of a sequence built from a list is that element of the list. -/
theorem getElem_seqOf (l : List α) (h : l.length = n) (i : Nat) (hi : i < n) :
    (seqOf l h)[i] = l[i]'(by omega) := rfl

/-- Building a sequence from its own list gives it back. -/
@[simp] theorem seqOf_toList (v : Vector α n) : seqOf v.toList (by simp) = v := by
  apply Vector.toList_inj.mp; simp

/-- Two sequences with the same list of elements are equal. -/
theorem bytes_ext_toList {v w : Vector α n} (h : v.toList = w.toList) : v = w :=
  Vector.toList_inj.mp h

/-- Bytewise exclusive-or at an index (R120). -/
theorem getElem_xorBytes (a b : Bytes n) (i : Nat) (hi : i < n) :
    (xorBytes a b)[i] = a[i] ^^^ b[i] := by
  simp [xorBytes, getElem_seqOf]

/-- `X(a, b) = X(b, a)` (R120). -/
theorem xorBytes_comm (a b : Bytes n) : xorBytes a b = xorBytes b a := by
  ext i hi : 1
  simp only [getElem_xorBytes, BitVec.xor_comm]

/-- `X(X(a, b), b) = a` (R120). -/
theorem xorBytes_cancel (a b : Bytes n) : xorBytes (xorBytes a b) b = a := by
  ext i hi : 1
  simp [getElem_xorBytes]

/-- The reversed sequence at an index (R161). -/
theorem getElem_reverseBytes (a : Bytes n) (i : Nat) (hi : i < n) :
    (reverseBytes a)[i] = a[n - 1 - i] := by
  simp [reverseBytes, getElem_seqOf, List.getElem_reverse]

/-- Reversing twice gives the sequence back (R161). -/
@[simp] theorem reverseBytes_reverseBytes (a : Bytes n) : reverseBytes (reverseBytes a) = a := by
  apply bytes_ext_toList; simp [reverseBytes]

@[simp] theorem length_toLe32 (v : Word) : (toLe32 v).length = 4 := rfl

/-- `LE32` as a sum (R7). -/
theorem toNat_le32 (b0 b1 b2 b3 : Byte) :
    (le32 b0 b1 b2 b3).toNat
      = b0.toNat + 2 ^ 8 * b1.toNat + 2 ^ 16 * b2.toNat + 2 ^ 24 * b3.toNat := by
  have h0 := b0.isLt
  have h1 := b1.isLt
  have h2 := b2.isLt
  simp only [le32, BitVec.toNat_append]
  rw [← Nat.shiftLeft_add_eq_or_of_lt h2, ← Nat.shiftLeft_add_eq_or_of_lt h1,
    ← Nat.shiftLeft_add_eq_or_of_lt h0]
  simp only [Nat.shiftLeft_eq]
  omega

/-- `LE32(toLE32(v)) = v` (R7). -/
theorem le32_toLe32 (v : Word) :
    le32 (v.extractLsb' 0 8) (v.extractLsb' 8 8) (v.extractLsb' 16 8) (v.extractLsb' 24 8) = v := by
  apply BitVec.eq_of_toNat_eq
  have := v.isLt
  simp only [toNat_le32, BitVec.extractLsb'_toNat, Nat.shiftRight_eq_div_pow]
  omega

end Sys2Proof.Machine
end

