-- ==== Sys2Proof/Laws/Memory.lean ====
section
/-! SUPPORT. The laws of the list that holds the written bytes of `DMEM`: reading after writing, and
the canonical form, which every operation keeps and which makes equal contents equal data. -/

namespace Sys2Proof.Machine

@[simp] theorem Memory.get?_nil (a : Nat) : Memory.get? [] a = none := rfl

@[simp] theorem Memory.get?_cons (c : Host.Cell) (m : Memory) (a : Nat) :
    Memory.get? (c :: m) a = if c.1 = a then some c.2 else Memory.get? m a := rfl

/-- Reading the written address gives the written byte. -/
@[simp] theorem Memory.get?_set_same (m : Memory) (a : Nat) (v : Byte) :
    (m.set a v).get? a = some v := by
  induction m with
  | nil => simp [Memory.set]
  | cons c m ih =>
    simp only [Memory.set]
    split
    · simp
    · split
      · simp
      · next h => simp [ih, Ne.symm h]

/-- A write leaves every other address as it was. -/
theorem Memory.get?_set_other (m : Memory) {a b : Nat} (v : Byte) (h : b ≠ a) :
    (m.set a v).get? b = m.get? b := by
  induction m with
  | nil => simp [Memory.set, Ne.symm h]
  | cons c m ih =>
    simp only [Memory.set]
    split
    · simp [Ne.symm h]
    · split
      · next hc => subst hc; simp [Ne.symm h]
      · simp [ih]

/-- A read after the bytes of a list have been written from `a` on: the byte of the list inside the
window, the old contents outside it (R51). -/
theorem Memory.get?_setBytes (m : Memory) (a : Nat) (vs : List Byte) (b : Nat) :
    (m.setBytes a vs).get? b
      = if h : a ≤ b ∧ b < a + vs.length then some (vs[b - a]'(by omega)) else m.get? b := by
  induction vs generalizing m a with
  | nil => simp only [Memory.setBytes, List.length_nil]; split <;> [omega; rfl]
  | cons v vs ih =>
    simp only [Memory.setBytes, ih, List.length_cons]
    by_cases hb : b = a
    · subst hb; simp
    · rw [Memory.get?_set_other _ _ hb]
      by_cases h : a + 1 ≤ b ∧ b < a + 1 + vs.length
      · have h' : a ≤ b ∧ b < a + (vs.length + 1) := by omega
        simp only [h, h', and_self, dite_true, Option.some.injEq]
        rw [List.getElem_cons, dif_neg (by omega)]
        congr 1
      · have h' : ¬ (a ≤ b ∧ b < a + (vs.length + 1)) := by omega
        simp only [h, h', dite_false]

/-- The canonical form of a list with a first entry: the entry lies below the second, and the rest is
canonical. -/
theorem Memory.wf_cons_iff (c : Host.Cell) (m : Memory) :
    Memory.wf (c :: m) = true ↔ (∀ d ∈ m, c.1 < d.1) ∧ Memory.wf m = true := by
  induction m generalizing c with
  | nil => simp [Memory.wf]
  | cons d m ih =>
    simp only [Memory.wf, Bool.and_eq_true, decide_eq_true_eq, List.mem_cons, forall_eq_or_imp]
    constructor
    · rintro ⟨h, hw⟩
      exact ⟨⟨h, fun e he => Nat.lt_trans h (((ih d).mp hw).1 e he)⟩, hw⟩
    · rintro ⟨⟨h, -⟩, hw⟩
      exact ⟨h, hw⟩

/-- The addresses listed after a write: the written one and those listed before. -/
theorem Memory.mem_set {m : Memory} {a : Nat} {v : Byte} {d : Host.Cell} (h : d ∈ m.set a v) :
    d = (a, v) ∨ d ∈ m := by
  induction m with
  | nil => simpa [Memory.set] using h
  | cons c m ih =>
    simp only [Memory.set] at h
    split at h
    · simpa using h
    · split at h
      · rcases List.mem_cons.mp h with h | h
        · exact .inl h
        · exact .inr (List.mem_cons_of_mem _ h)
      · rcases List.mem_cons.mp h with h | h
        · exact .inr (h ▸ List.mem_cons_self)
        · rcases ih h with h | h
          · exact .inl h
          · exact .inr (List.mem_cons_of_mem _ h)

/-- A write keeps the canonical form. -/
theorem Memory.wf_set {m : Memory} (hm : m.wf = true) (a : Nat) (v : Byte) :
    (m.set a v).wf = true := by
  induction m with
  | nil => rfl
  | cons c m ih =>
    obtain ⟨hlt, hw⟩ := (Memory.wf_cons_iff c m).mp hm
    simp only [Memory.set]
    split
    · next h =>
      refine (Memory.wf_cons_iff _ _).mpr ⟨?_, hm⟩
      intro d hd
      rcases List.mem_cons.mp hd with rfl | hd
      · exact h
      · exact Nat.lt_trans h (hlt d hd)
    · split
      · next h => subst h; exact (Memory.wf_cons_iff _ _).mpr ⟨hlt, hw⟩
      · refine (Memory.wf_cons_iff _ _).mpr ⟨?_, ih hw⟩
        intro d hd
        rcases Memory.mem_set hd with rfl | hd
        · simp only; omega
        · exact hlt d hd

/-- Writing a list of bytes keeps the canonical form. -/
theorem Memory.wf_setBytes {m : Memory} (hm : m.wf = true) (a : Nat) (vs : List Byte) :
    (m.setBytes a vs).wf = true := by
  induction vs generalizing m a with
  | nil => exact hm
  | cons v vs ih => exact ih (Memory.wf_set hm a v) (a + 1)

/-- A write below `size` keeps every listed address below `size`. -/
theorem Memory.below_set {size : Nat} {m : Memory} (hm : m.below size = true) {a : Nat}
    (ha : a < size) (v : Byte) : (m.set a v).below size = true := by
  simp only [Memory.below, List.all_eq_true, decide_eq_true_eq] at *
  intro d hd
  rcases Memory.mem_set hd with rfl | hd
  · exact ha
  · exact hm d hd

/-- Writing a list of bytes inside the first `size` addresses keeps every listed address below
`size`. -/
theorem Memory.below_setBytes {size : Nat} {m : Memory} (hm : m.below size = true) (a : Nat)
    (vs : List Byte) (ha : a + vs.length ≤ size) : (m.setBytes a vs).below size = true := by
  induction vs generalizing m a with
  | nil => exact hm
  | cons v vs ih =>
    simp only [List.length_cons] at ha
    exact ih (Memory.below_set hm (by omega) v) (a + 1) (by omega)

/-- An address below every listed one is not listed. -/
theorem Memory.get?_eq_none_of_lt {m : Memory} {a : Nat} (h : ∀ d ∈ m, a < d.1) :
    m.get? a = none := by
  induction m with
  | nil => rfl
  | cons c m ih =>
    have := h c List.mem_cons_self
    simp only [Memory.get?_cons, if_neg (Nat.ne_of_gt this)]
    exact ih fun d hd => h d (List.mem_cons_of_mem _ hd)

/-- In canonical form, equal contents are equal data. -/
theorem Memory.ext_of_wf {m n : Memory} (hm : m.wf = true) (hn : n.wf = true)
    (h : ∀ a, m.get? a = n.get? a) : m = n := by
  induction m generalizing n with
  | nil =>
    cases n with
    | nil => rfl
    | cons d n => have := h d.1; simp at this
  | cons c m ih =>
    obtain ⟨hc, hmw⟩ := (Memory.wf_cons_iff c m).mp hm
    cases n with
    | nil => have := h c.1; simp at this
    | cons d n =>
      obtain ⟨hd, hnw⟩ := (Memory.wf_cons_iff d n).mp hn
      have hcd : c.1 = d.1 := by
        rcases Nat.lt_trichotomy c.1 d.1 with hlt | heq | hgt
        · have := h c.1
          rw [Memory.get?_eq_none_of_lt (m := d :: n)] at this
          · simp at this
          · intro e he
            rcases List.mem_cons.mp he with rfl | he
            · exact hlt
            · exact Nat.lt_trans hlt (hd e he)
        · exact heq
        · have := h d.1
          rw [Memory.get?_eq_none_of_lt (m := c :: m)] at this
          · simp at this
          · intro e he
            rcases List.mem_cons.mp he with rfl | he
            · exact hgt
            · exact Nat.lt_trans hgt (hc e he)
      have h2 : c.2 = d.2 := by have := h c.1; simpa [hcd] using this
      have hcd' : c = d := Prod.ext hcd h2
      subst hcd'
      congr 1
      apply ih hmw hnw
      intro a
      by_cases ha : c.1 = a
      · subst ha
        rw [Memory.get?_eq_none_of_lt hc, Memory.get?_eq_none_of_lt hd]
      · have := h a; simpa [ha] using this

end Sys2Proof.Machine
end

