-- ==== Sys2Proof/Laws/State.lean ====
section
/-! SUPPORT. What each named update of the state does to each field, one lemma per field, so that no
proof unfolds a record update. -/

namespace Sys2Proof.Machine

/-! The fields after `x[5] <- v` (R22). -/

@[simp] theorem State.setResult_x0 (s : State) (v : Word) : (s.setResult v).x0 = s.x0 := rfl
@[simp] theorem State.setResult_x1 (s : State) (v : Word) : (s.setResult v).x1 = s.x1 := rfl
@[simp] theorem State.setResult_x2 (s : State) (v : Word) : (s.setResult v).x2 = s.x2 := rfl
@[simp] theorem State.setResult_x3 (s : State) (v : Word) : (s.setResult v).x3 = s.x3 := rfl
@[simp] theorem State.setResult_x4 (s : State) (v : Word) : (s.setResult v).x4 = s.x4 := rfl
@[simp] theorem State.setResult_x5 (s : State) (v : Word) : (s.setResult v).x5 = v := rfl
@[simp] theorem State.setResult_err (s : State) (v : Word) : (s.setResult v).err = s.err := rfl
@[simp] theorem State.setResult_fault (s : State) (v : Word) : (s.setResult v).fault = s.fault := rfl
@[simp] theorem State.setResult_finfo (s : State) (v : Word) : (s.setResult v).finfo = s.finfo := rfl
@[simp] theorem State.setResult_kv (s : State) (v : Word) : (s.setResult v).kv = s.kv := rfl
@[simp] theorem State.setResult_kuzRk (s : State) (v : Word) : (s.setResult v).kuzRk = s.kuzRk := rfl
@[simp] theorem State.setResult_mv (s : State) (v : Word) : (s.setResult v).mv = s.mv := rfl
@[simp] theorem State.setResult_magK (s : State) (v : Word) : (s.setResult v).magK = s.magK := rfl
@[simp] theorem State.setResult_dmem (s : State) (v : Word) : (s.setResult v).dmem = s.dmem := rfl
@[simp] theorem State.setResult_cfg (s : State) (v : Word) : (s.setResult v).cfg = s.cfg := rfl
@[simp] theorem State.setResult_resets (s : State) (v : Word) : (s.setResult v).resets = s.resets := rfl
@[simp] theorem State.setResult_script (s : State) (v : Word) : (s.setResult v).script = s.script := rfl
@[simp] theorem State.setResult_index (s : State) (v : Word) : (s.setResult v).index = s.index := rfl
@[simp] theorem State.setResult_replies (s : State) (v : Word) : (s.setResult v).replies = s.replies := rfl

/-! The fields after `MemWrite` (R51). -/

@[simp] theorem State.memWrite_x0 (s : State) (a : Nat) (v : List Byte) : (s.memWrite a v).x0 = s.x0 := rfl
@[simp] theorem State.memWrite_x1 (s : State) (a : Nat) (v : List Byte) : (s.memWrite a v).x1 = s.x1 := rfl
@[simp] theorem State.memWrite_x2 (s : State) (a : Nat) (v : List Byte) : (s.memWrite a v).x2 = s.x2 := rfl
@[simp] theorem State.memWrite_x3 (s : State) (a : Nat) (v : List Byte) : (s.memWrite a v).x3 = s.x3 := rfl
@[simp] theorem State.memWrite_x4 (s : State) (a : Nat) (v : List Byte) : (s.memWrite a v).x4 = s.x4 := rfl
@[simp] theorem State.memWrite_x5 (s : State) (a : Nat) (v : List Byte) : (s.memWrite a v).x5 = s.x5 := rfl
@[simp] theorem State.memWrite_err (s : State) (a : Nat) (v : List Byte) : (s.memWrite a v).err = s.err := rfl
@[simp] theorem State.memWrite_fault (s : State) (a : Nat) (v : List Byte) : (s.memWrite a v).fault = s.fault := rfl
@[simp] theorem State.memWrite_finfo (s : State) (a : Nat) (v : List Byte) : (s.memWrite a v).finfo = s.finfo := rfl
@[simp] theorem State.memWrite_kv (s : State) (a : Nat) (v : List Byte) : (s.memWrite a v).kv = s.kv := rfl
@[simp] theorem State.memWrite_kuzRk (s : State) (a : Nat) (v : List Byte) : (s.memWrite a v).kuzRk = s.kuzRk := rfl
@[simp] theorem State.memWrite_mv (s : State) (a : Nat) (v : List Byte) : (s.memWrite a v).mv = s.mv := rfl
@[simp] theorem State.memWrite_magK (s : State) (a : Nat) (v : List Byte) : (s.memWrite a v).magK = s.magK := rfl
@[simp] theorem State.memWrite_dmem (s : State) (a : Nat) (v : List Byte) : (s.memWrite a v).dmem = s.dmem.setBytes a v := rfl
@[simp] theorem State.memWrite_cfg (s : State) (a : Nat) (v : List Byte) : (s.memWrite a v).cfg = s.cfg := rfl
@[simp] theorem State.memWrite_resets (s : State) (a : Nat) (v : List Byte) : (s.memWrite a v).resets = s.resets := rfl
@[simp] theorem State.memWrite_script (s : State) (a : Nat) (v : List Byte) : (s.memWrite a v).script = s.script := rfl
@[simp] theorem State.memWrite_index (s : State) (a : Nat) (v : List Byte) : (s.memWrite a v).index = s.index := rfl
@[simp] theorem State.memWrite_replies (s : State) (a : Nat) (v : List Byte) : (s.memWrite a v).replies = s.replies := rfl

/-! The fields after loading the Kuznyechik context (R27). -/

@[simp] theorem State.loadKuz_x0 (s : State) (k : KuzBank) : (s.loadKuz k).x0 = s.x0 := rfl
@[simp] theorem State.loadKuz_x1 (s : State) (k : KuzBank) : (s.loadKuz k).x1 = s.x1 := rfl
@[simp] theorem State.loadKuz_x2 (s : State) (k : KuzBank) : (s.loadKuz k).x2 = s.x2 := rfl
@[simp] theorem State.loadKuz_x3 (s : State) (k : KuzBank) : (s.loadKuz k).x3 = s.x3 := rfl
@[simp] theorem State.loadKuz_x4 (s : State) (k : KuzBank) : (s.loadKuz k).x4 = s.x4 := rfl
@[simp] theorem State.loadKuz_x5 (s : State) (k : KuzBank) : (s.loadKuz k).x5 = s.x5 := rfl
@[simp] theorem State.loadKuz_err (s : State) (k : KuzBank) : (s.loadKuz k).err = s.err := rfl
@[simp] theorem State.loadKuz_fault (s : State) (k : KuzBank) : (s.loadKuz k).fault = s.fault := rfl
@[simp] theorem State.loadKuz_finfo (s : State) (k : KuzBank) : (s.loadKuz k).finfo = s.finfo := rfl
@[simp] theorem State.loadKuz_kv (s : State) (k : KuzBank) : (s.loadKuz k).kv = true := rfl
@[simp] theorem State.loadKuz_kuzRk (s : State) (k : KuzBank) : (s.loadKuz k).kuzRk = k := rfl
@[simp] theorem State.loadKuz_mv (s : State) (k : KuzBank) : (s.loadKuz k).mv = s.mv := rfl
@[simp] theorem State.loadKuz_magK (s : State) (k : KuzBank) : (s.loadKuz k).magK = s.magK := rfl
@[simp] theorem State.loadKuz_dmem (s : State) (k : KuzBank) : (s.loadKuz k).dmem = s.dmem := rfl
@[simp] theorem State.loadKuz_cfg (s : State) (k : KuzBank) : (s.loadKuz k).cfg = s.cfg := rfl
@[simp] theorem State.loadKuz_resets (s : State) (k : KuzBank) : (s.loadKuz k).resets = s.resets := rfl
@[simp] theorem State.loadKuz_script (s : State) (k : KuzBank) : (s.loadKuz k).script = s.script := rfl
@[simp] theorem State.loadKuz_index (s : State) (k : KuzBank) : (s.loadKuz k).index = s.index := rfl
@[simp] theorem State.loadKuz_replies (s : State) (k : KuzBank) : (s.loadKuz k).replies = s.replies := rfl

/-! The fields after loading the Magma context (R28). -/

@[simp] theorem State.loadMag_x0 (s : State) (k : MagBank) : (s.loadMag k).x0 = s.x0 := rfl
@[simp] theorem State.loadMag_x1 (s : State) (k : MagBank) : (s.loadMag k).x1 = s.x1 := rfl
@[simp] theorem State.loadMag_x2 (s : State) (k : MagBank) : (s.loadMag k).x2 = s.x2 := rfl
@[simp] theorem State.loadMag_x3 (s : State) (k : MagBank) : (s.loadMag k).x3 = s.x3 := rfl
@[simp] theorem State.loadMag_x4 (s : State) (k : MagBank) : (s.loadMag k).x4 = s.x4 := rfl
@[simp] theorem State.loadMag_x5 (s : State) (k : MagBank) : (s.loadMag k).x5 = s.x5 := rfl
@[simp] theorem State.loadMag_err (s : State) (k : MagBank) : (s.loadMag k).err = s.err := rfl
@[simp] theorem State.loadMag_fault (s : State) (k : MagBank) : (s.loadMag k).fault = s.fault := rfl
@[simp] theorem State.loadMag_finfo (s : State) (k : MagBank) : (s.loadMag k).finfo = s.finfo := rfl
@[simp] theorem State.loadMag_kv (s : State) (k : MagBank) : (s.loadMag k).kv = s.kv := rfl
@[simp] theorem State.loadMag_kuzRk (s : State) (k : MagBank) : (s.loadMag k).kuzRk = s.kuzRk := rfl
@[simp] theorem State.loadMag_mv (s : State) (k : MagBank) : (s.loadMag k).mv = true := rfl
@[simp] theorem State.loadMag_magK (s : State) (k : MagBank) : (s.loadMag k).magK = k := rfl
@[simp] theorem State.loadMag_dmem (s : State) (k : MagBank) : (s.loadMag k).dmem = s.dmem := rfl
@[simp] theorem State.loadMag_cfg (s : State) (k : MagBank) : (s.loadMag k).cfg = s.cfg := rfl
@[simp] theorem State.loadMag_resets (s : State) (k : MagBank) : (s.loadMag k).resets = s.resets := rfl
@[simp] theorem State.loadMag_script (s : State) (k : MagBank) : (s.loadMag k).script = s.script := rfl
@[simp] theorem State.loadMag_index (s : State) (k : MagBank) : (s.loadMag k).index = s.index := rfl
@[simp] theorem State.loadMag_replies (s : State) (k : MagBank) : (s.loadMag k).replies = s.replies := rfl

/-! The fields after fault entry (R230). -/

@[simp] theorem State.raiseFault_x0 (s : State) (f : FaultName) (w : Word) : (s.raiseFault f w).x0 = s.x0 := rfl
@[simp] theorem State.raiseFault_x1 (s : State) (f : FaultName) (w : Word) : (s.raiseFault f w).x1 = s.x1 := rfl
@[simp] theorem State.raiseFault_x2 (s : State) (f : FaultName) (w : Word) : (s.raiseFault f w).x2 = s.x2 := rfl
@[simp] theorem State.raiseFault_x3 (s : State) (f : FaultName) (w : Word) : (s.raiseFault f w).x3 = s.x3 := rfl
@[simp] theorem State.raiseFault_x4 (s : State) (f : FaultName) (w : Word) : (s.raiseFault f w).x4 = s.x4 := rfl
@[simp] theorem State.raiseFault_x5 (s : State) (f : FaultName) (w : Word) : (s.raiseFault f w).x5 = s.x5 := rfl
@[simp] theorem State.raiseFault_err (s : State) (f : FaultName) (w : Word) : (s.raiseFault f w).err = s.err := rfl
@[simp] theorem State.raiseFault_fault (s : State) (f : FaultName) (w : Word) : (s.raiseFault f w).fault = f.code := rfl
@[simp] theorem State.raiseFault_finfo (s : State) (f : FaultName) (w : Word) : (s.raiseFault f w).finfo = w := rfl
@[simp] theorem State.raiseFault_kv (s : State) (f : FaultName) (w : Word) : (s.raiseFault f w).kv = s.kv := rfl
@[simp] theorem State.raiseFault_kuzRk (s : State) (f : FaultName) (w : Word) : (s.raiseFault f w).kuzRk = s.kuzRk := rfl
@[simp] theorem State.raiseFault_mv (s : State) (f : FaultName) (w : Word) : (s.raiseFault f w).mv = s.mv := rfl
@[simp] theorem State.raiseFault_magK (s : State) (f : FaultName) (w : Word) : (s.raiseFault f w).magK = s.magK := rfl
@[simp] theorem State.raiseFault_dmem (s : State) (f : FaultName) (w : Word) : (s.raiseFault f w).dmem = s.dmem := rfl
@[simp] theorem State.raiseFault_cfg (s : State) (f : FaultName) (w : Word) : (s.raiseFault f w).cfg = s.cfg := rfl
@[simp] theorem State.raiseFault_resets (s : State) (f : FaultName) (w : Word) : (s.raiseFault f w).resets = s.resets := rfl
@[simp] theorem State.raiseFault_script (s : State) (f : FaultName) (w : Word) : (s.raiseFault f w).script = s.script := rfl
@[simp] theorem State.raiseFault_index (s : State) (f : FaultName) (w : Word) : (s.raiseFault f w).index = s.index := rfl
@[simp] theorem State.raiseFault_replies (s : State) (f : FaultName) (w : Word) : (s.raiseFault f w).replies = s.replies := rfl

/-! The fields after a recoverable error (R221). -/

@[simp] theorem State.reportError_x0 (s : State) (e : ErrorName) : (s.reportError e).x0 = s.x0 := rfl
@[simp] theorem State.reportError_x1 (s : State) (e : ErrorName) : (s.reportError e).x1 = s.x1 := rfl
@[simp] theorem State.reportError_x2 (s : State) (e : ErrorName) : (s.reportError e).x2 = s.x2 := rfl
@[simp] theorem State.reportError_x3 (s : State) (e : ErrorName) : (s.reportError e).x3 = s.x3 := rfl
@[simp] theorem State.reportError_x4 (s : State) (e : ErrorName) : (s.reportError e).x4 = s.x4 := rfl
@[simp] theorem State.reportError_x5 (s : State) (e : ErrorName) : (s.reportError e).x5 = s.x5 := rfl
@[simp] theorem State.reportError_err (s : State) (e : ErrorName) : (s.reportError e).err = e.code := rfl
@[simp] theorem State.reportError_fault (s : State) (e : ErrorName) : (s.reportError e).fault = s.fault := rfl
@[simp] theorem State.reportError_finfo (s : State) (e : ErrorName) : (s.reportError e).finfo = s.finfo := rfl
@[simp] theorem State.reportError_kv (s : State) (e : ErrorName) : (s.reportError e).kv = s.kv := rfl
@[simp] theorem State.reportError_kuzRk (s : State) (e : ErrorName) : (s.reportError e).kuzRk = s.kuzRk := rfl
@[simp] theorem State.reportError_mv (s : State) (e : ErrorName) : (s.reportError e).mv = s.mv := rfl
@[simp] theorem State.reportError_magK (s : State) (e : ErrorName) : (s.reportError e).magK = s.magK := rfl
@[simp] theorem State.reportError_dmem (s : State) (e : ErrorName) : (s.reportError e).dmem = s.dmem := rfl
@[simp] theorem State.reportError_cfg (s : State) (e : ErrorName) : (s.reportError e).cfg = s.cfg := rfl
@[simp] theorem State.reportError_resets (s : State) (e : ErrorName) : (s.reportError e).resets = s.resets := rfl
@[simp] theorem State.reportError_script (s : State) (e : ErrorName) : (s.reportError e).script = s.script := rfl
@[simp] theorem State.reportError_index (s : State) (e : ErrorName) : (s.reportError e).index = s.index := rfl
@[simp] theorem State.reportError_replies (s : State) (e : ErrorName) : (s.reportError e).replies = s.replies := rfl

/-! The fields after `RESET` (R250). -/

@[simp] theorem State.hostReset_x0 (s : State) : s.hostReset.x0 = 0 := rfl
@[simp] theorem State.hostReset_x1 (s : State) : s.hostReset.x1 = 0 := rfl
@[simp] theorem State.hostReset_x2 (s : State) : s.hostReset.x2 = 0 := rfl
@[simp] theorem State.hostReset_x3 (s : State) : s.hostReset.x3 = 0 := rfl
@[simp] theorem State.hostReset_x4 (s : State) : s.hostReset.x4 = 0 := rfl
@[simp] theorem State.hostReset_x5 (s : State) : s.hostReset.x5 = 0 := rfl
@[simp] theorem State.hostReset_err (s : State) : s.hostReset.err = 0 := rfl
@[simp] theorem State.hostReset_fault (s : State) : s.hostReset.fault = 0 := rfl
@[simp] theorem State.hostReset_finfo (s : State) : s.hostReset.finfo = 0 := rfl
@[simp] theorem State.hostReset_kv (s : State) : s.hostReset.kv = false := rfl
@[simp] theorem State.hostReset_kuzRk (s : State) : s.hostReset.kuzRk = Config.freeKuzBank (s.resets + 1) := rfl
@[simp] theorem State.hostReset_mv (s : State) : s.hostReset.mv = false := rfl
@[simp] theorem State.hostReset_magK (s : State) : s.hostReset.magK = Config.freeMagBank (s.resets + 1) := rfl
@[simp] theorem State.hostReset_dmem (s : State) : s.hostReset.dmem = [] := rfl
@[simp] theorem State.hostReset_cfg (s : State) : s.hostReset.cfg = s.cfg := rfl
@[simp] theorem State.hostReset_resets (s : State) : s.hostReset.resets = s.resets + 1 := rfl
@[simp] theorem State.hostReset_script (s : State) : s.hostReset.script = s.script := rfl
@[simp] theorem State.hostReset_index (s : State) : s.hostReset.index = s.index := rfl
@[simp] theorem State.hostReset_replies (s : State) : s.hostReset.replies = s.replies := rfl

/-! The fields after taking an action off the script (R33). -/

@[simp] theorem State.advance_x0 (s : State) (r : List HostRequest) : (s.advance r).x0 = s.x0 := rfl
@[simp] theorem State.advance_x1 (s : State) (r : List HostRequest) : (s.advance r).x1 = s.x1 := rfl
@[simp] theorem State.advance_x2 (s : State) (r : List HostRequest) : (s.advance r).x2 = s.x2 := rfl
@[simp] theorem State.advance_x3 (s : State) (r : List HostRequest) : (s.advance r).x3 = s.x3 := rfl
@[simp] theorem State.advance_x4 (s : State) (r : List HostRequest) : (s.advance r).x4 = s.x4 := rfl
@[simp] theorem State.advance_x5 (s : State) (r : List HostRequest) : (s.advance r).x5 = s.x5 := rfl
@[simp] theorem State.advance_err (s : State) (r : List HostRequest) : (s.advance r).err = s.err := rfl
@[simp] theorem State.advance_fault (s : State) (r : List HostRequest) : (s.advance r).fault = s.fault := rfl
@[simp] theorem State.advance_finfo (s : State) (r : List HostRequest) : (s.advance r).finfo = s.finfo := rfl
@[simp] theorem State.advance_kv (s : State) (r : List HostRequest) : (s.advance r).kv = s.kv := rfl
@[simp] theorem State.advance_kuzRk (s : State) (r : List HostRequest) : (s.advance r).kuzRk = s.kuzRk := rfl
@[simp] theorem State.advance_mv (s : State) (r : List HostRequest) : (s.advance r).mv = s.mv := rfl
@[simp] theorem State.advance_magK (s : State) (r : List HostRequest) : (s.advance r).magK = s.magK := rfl
@[simp] theorem State.advance_dmem (s : State) (r : List HostRequest) : (s.advance r).dmem = s.dmem := rfl
@[simp] theorem State.advance_cfg (s : State) (r : List HostRequest) : (s.advance r).cfg = s.cfg := rfl
@[simp] theorem State.advance_resets (s : State) (r : List HostRequest) : (s.advance r).resets = s.resets := rfl
@[simp] theorem State.advance_script (s : State) (r : List HostRequest) : (s.advance r).script = r := rfl
@[simp] theorem State.advance_index (s : State) (r : List HostRequest) : (s.advance r).index = s.index + 1 := rfl
@[simp] theorem State.advance_replies (s : State) (r : List HostRequest) : (s.advance r).replies = s.replies := rfl

/-! The fields after a reply to the host (R80). -/

@[simp] theorem State.reply_x0 (s : State) (r : HostReply) : (s.reply r).x0 = s.x0 := rfl
@[simp] theorem State.reply_x1 (s : State) (r : HostReply) : (s.reply r).x1 = s.x1 := rfl
@[simp] theorem State.reply_x2 (s : State) (r : HostReply) : (s.reply r).x2 = s.x2 := rfl
@[simp] theorem State.reply_x3 (s : State) (r : HostReply) : (s.reply r).x3 = s.x3 := rfl
@[simp] theorem State.reply_x4 (s : State) (r : HostReply) : (s.reply r).x4 = s.x4 := rfl
@[simp] theorem State.reply_x5 (s : State) (r : HostReply) : (s.reply r).x5 = s.x5 := rfl
@[simp] theorem State.reply_err (s : State) (r : HostReply) : (s.reply r).err = s.err := rfl
@[simp] theorem State.reply_fault (s : State) (r : HostReply) : (s.reply r).fault = s.fault := rfl
@[simp] theorem State.reply_finfo (s : State) (r : HostReply) : (s.reply r).finfo = s.finfo := rfl
@[simp] theorem State.reply_kv (s : State) (r : HostReply) : (s.reply r).kv = s.kv := rfl
@[simp] theorem State.reply_kuzRk (s : State) (r : HostReply) : (s.reply r).kuzRk = s.kuzRk := rfl
@[simp] theorem State.reply_mv (s : State) (r : HostReply) : (s.reply r).mv = s.mv := rfl
@[simp] theorem State.reply_magK (s : State) (r : HostReply) : (s.reply r).magK = s.magK := rfl
@[simp] theorem State.reply_dmem (s : State) (r : HostReply) : (s.reply r).dmem = s.dmem := rfl
@[simp] theorem State.reply_cfg (s : State) (r : HostReply) : (s.reply r).cfg = s.cfg := rfl
@[simp] theorem State.reply_resets (s : State) (r : HostReply) : (s.reply r).resets = s.resets := rfl
@[simp] theorem State.reply_script (s : State) (r : HostReply) : (s.reply r).script = s.script := rfl
@[simp] theorem State.reply_index (s : State) (r : HostReply) : (s.reply r).index = s.index := rfl
@[simp] theorem State.reply_replies (s : State) (r : HostReply) : (s.reply r).replies = s.replies ++ [r] := rfl

/-! The fields after a command put before the script (R23). -/

@[simp] theorem State.withCommand_x0 (s : State) (w : Word) : (s.withCommand w).x0 = s.x0 := rfl
@[simp] theorem State.withCommand_x1 (s : State) (w : Word) : (s.withCommand w).x1 = s.x1 := rfl
@[simp] theorem State.withCommand_x2 (s : State) (w : Word) : (s.withCommand w).x2 = s.x2 := rfl
@[simp] theorem State.withCommand_x3 (s : State) (w : Word) : (s.withCommand w).x3 = s.x3 := rfl
@[simp] theorem State.withCommand_x4 (s : State) (w : Word) : (s.withCommand w).x4 = s.x4 := rfl
@[simp] theorem State.withCommand_x5 (s : State) (w : Word) : (s.withCommand w).x5 = s.x5 := rfl
@[simp] theorem State.withCommand_err (s : State) (w : Word) : (s.withCommand w).err = s.err := rfl
@[simp] theorem State.withCommand_fault (s : State) (w : Word) : (s.withCommand w).fault = s.fault := rfl
@[simp] theorem State.withCommand_finfo (s : State) (w : Word) : (s.withCommand w).finfo = s.finfo := rfl
@[simp] theorem State.withCommand_kv (s : State) (w : Word) : (s.withCommand w).kv = s.kv := rfl
@[simp] theorem State.withCommand_kuzRk (s : State) (w : Word) : (s.withCommand w).kuzRk = s.kuzRk := rfl
@[simp] theorem State.withCommand_mv (s : State) (w : Word) : (s.withCommand w).mv = s.mv := rfl
@[simp] theorem State.withCommand_magK (s : State) (w : Word) : (s.withCommand w).magK = s.magK := rfl
@[simp] theorem State.withCommand_dmem (s : State) (w : Word) : (s.withCommand w).dmem = s.dmem := rfl
@[simp] theorem State.withCommand_cfg (s : State) (w : Word) : (s.withCommand w).cfg = s.cfg := rfl
@[simp] theorem State.withCommand_resets (s : State) (w : Word) : (s.withCommand w).resets = s.resets := rfl
@[simp] theorem State.withCommand_script (s : State) (w : Word) : (s.withCommand w).script = HostRequest.wr .cmd w :: s.script := rfl
@[simp] theorem State.withCommand_index (s : State) (w : Word) : (s.withCommand w).index = s.index := rfl
@[simp] theorem State.withCommand_replies (s : State) (w : Word) : (s.withCommand w).replies = s.replies := rfl

end Sys2Proof.Machine
end

