-- ==== Sys2Proof/Laws/Ops.lean ====
section
/-! SUPPORT. One lemma for each shared operation: what a read of `DMEM` gives after a write, and what
a command can do (spec/20_memory.md R51, spec/44_contract.md R200, spec/60_exceptions.md R233). -/

namespace Sys2Proof.Machine

/-- `FLT` as an equation on `FAULT` (R36). -/
theorem State.faulted_iff (s : State) : s.faulted = true ↔ s.fault ≠ 0#32 := by
  simp [State.faulted]

/-- Not faulted as an equation on `FAULT` (R36). -/
theorem State.faulted_eq_false_iff (s : State) : s.faulted = false ↔ s.fault = 0#32 := by
  simp [State.faulted]

/-- `InRange` as an inequality (R57). -/
@[simp] theorem State.inRange_iff (s : State) (a n : Nat) :
    s.inRange a n = true ↔ a + n ≤ s.cfg.dmemSize := by
  simp [State.inRange]

/-- A byte of `DMEM` depends on the written bytes and the reset number alone. -/
theorem State.byteAt_congr {s t : State} (hd : s.dmem = t.dmem) (hr : s.resets = t.resets) :
    s.byteAt = t.byteAt := by
  funext a; simp [State.byteAt, hd, hr]

/-- A byte of `DMEM` after `MemWrite`: the stored byte inside the window, the old byte outside it
(R51). -/
theorem State.byteAt_memWrite (s : State) (addr : Nat) (v : List Byte) (a : Nat) :
    (s.memWrite addr v).byteAt a
      = if h : addr ≤ a ∧ a < addr + v.length then v[a - addr]'(by omega) else s.byteAt a := by
  simp only [State.byteAt, State.memWrite_dmem, State.memWrite_resets, Memory.get?_setBytes]
  split <;> simp

/-- Inside the window (R51). -/
theorem State.byteAt_memWrite_inside (s : State) (addr : Nat) (v : List Byte) (i : Nat)
    (hi : i < v.length) : (s.memWrite addr v).byteAt (addr + i) = v[i] := by
  rw [State.byteAt_memWrite, dif_pos (by omega)]
  congr 1; omega

/-- Outside the window (R51). -/
theorem State.byteAt_memWrite_outside (s : State) (addr : Nat) (v : List Byte) (a : Nat)
    (ha : a < addr ∨ addr + v.length ≤ a) : (s.memWrite addr v).byteAt a = s.byteAt a := by
  rw [State.byteAt_memWrite, dif_neg (by omega)]

@[simp] theorem State.length_memRead (s : State) (addr n : Nat) : (s.memRead addr n).length = n := by
  simp [State.memRead]

/-- `MemRead(addr, n)[i] = DMEM[addr+i]` (R51). -/
theorem State.getElem_memRead (s : State) (addr n i : Nat) (hi : i < (s.memRead addr n).length) :
    (s.memRead addr n)[i] = s.byteAt (addr + i) := by
  simp [State.memRead]

/-- `MemRead(addr, n)[i] = DMEM[addr+i]`, as a sequence of known length (R51). -/
theorem State.getElem_memReadSeq (s : State) (addr n i : Nat) (hi : i < n) :
    (s.memReadSeq addr n)[i] = s.byteAt (addr + i) := by
  simp [State.memReadSeq, getElem_seqOf, State.getElem_memRead]

/-- `MemRead` depends on the bytes of `DMEM` alone. -/
theorem State.memRead_congr {s t : State} (h : s.byteAt = t.byteAt) (addr n : Nat) :
    s.memRead addr n = t.memRead addr n := by
  simp [State.memRead, h]

/-- `MemRead` of known length depends on the bytes of `DMEM` alone. -/
theorem State.memReadSeq_congr {s t : State} (h : s.byteAt = t.byteAt) (addr n : Nat) :
    s.memReadSeq addr n = t.memReadSeq addr n := by
  simp [State.memReadSeq, State.memRead_congr h]

/-- Everything a command can do (R200, R233): it is ignored, or its checks pass and its effect takes
place, or it ends in an error, or it ends in a fault. It always gives a next state. -/
theorem command_cases (i : Instr) (v : Verdict) (e s : State) :
    (s.fault ≠ 0#32 ∧ command i v e s = .next s) ∨
    (s.fault = 0#32 ∧ v = .ok ∧ command i v e s = .next { e with err := 0 }) ∨
    (s.fault = 0#32 ∧ ∃ n, v = .error n ∧ command i v e s = .next (s.reportError n)) ∨
    (s.fault = 0#32 ∧ ∃ f, v = .fault f ∧ command i v e s = .next (s.raiseFault f (encode i))) := by
  by_cases h : s.fault = 0#32
  · have hf : s.faulted = false := (State.faulted_eq_false_iff s).mpr h
    cases v <;> simp [command, hf, h]
  · have hf : s.faulted = true := (State.faulted_iff s).mpr h
    exact .inl ⟨h, by simp [command, hf]⟩

/-- In the faulted state a command is ignored (R231). -/
theorem command_faulted {s : State} (h : s.fault ≠ 0#32) (i : Instr) (v : Verdict) (e : State) :
    command i v e s = .next s := by
  simp [command, (State.faulted_iff s).mpr h]

/-- A command whose checks pass takes effect (R200). -/
theorem command_ok {s : State} (h : s.fault = 0#32) (i : Instr) {v : Verdict} (hv : v = .ok)
    (e : State) : command i v e s = .next { e with err := 0 } := by
  simp [command, (State.faulted_eq_false_iff s).mpr h, hv]

/-- A command that ends in an error writes `ERR` alone (R221). -/
theorem command_error {s : State} (h : s.fault = 0#32) (i : Instr) {v : Verdict} {n : ErrorName}
    (hv : v = .error n) (e : State) : command i v e s = .next (s.reportError n) := by
  simp [command, (State.faulted_eq_false_iff s).mpr h, hv]

/-- A command that ends in a fault writes `FAULT` and `FINFO` alone (R230). -/
theorem command_fault {s : State} (h : s.fault = 0#32) (i : Instr) {v : Verdict} {f : FaultName}
    (hv : v = .fault f) (e : State) : command i v e s = .next (s.raiseFault f (encode i)) := by
  simp [command, (State.faulted_eq_false_iff s).mpr h, hv]

end Sys2Proof.Machine
end

