-- ==== Sys2Proof/Laws/Checks.lean ====
section
/-! SUPPORT. Each check sequence of spec/44_contract.md R201, R202 and spec/43_padding.md R186, R187:
every outcome it can have, with the conditions on the operands that give it; and that `DMEM` keeps
its legal form. -/

namespace Sys2Proof.Machine

/-- Right after reset `DMEM` is in canonical form inside `DMEM_SIZE`. -/
theorem State.reset_dmemLegal : State.reset.dmemLegal = true := rfl

/-- `MemWrite` inside `DMEM` keeps the canonical form and the bound (R50, R51). -/
theorem State.memWrite_dmemLegal {s : State} (hs : s.dmemLegal = true) (addr : Nat) (v : List Byte)
    (h : addr + v.length ≤ s.cfg.dmemSize) : (s.memWrite addr v).dmemLegal = true := by
  simp only [State.dmemLegal, Bool.and_eq_true, State.memWrite_dmem, State.memWrite_cfg] at hs ⊢
  exact ⟨Memory.wf_setBytes hs.1 _ _, Memory.below_setBytes hs.2 _ _ h⟩

/-- `RESET` leaves `DMEM` with nothing written, in canonical form (R250). -/
theorem State.hostReset_dmemLegal (s : State) : s.hostReset.dmemLegal = true := rfl

/-- The outcomes of the `SETKEY` checks (R201). -/
theorem State.setkeyVerdict_cases (s : State) :
    (s.srcLen ≠ 32 ∧ s.setkeyVerdict = .error .invalidKeySize) ∨
    (s.srcLen = 32 ∧ s.cfg.dmemSize < s.srcAddr + 32 ∧ s.setkeyVerdict = .fault .boundsFault) ∨
    (s.srcLen = 32 ∧ s.srcAddr + 32 ≤ s.cfg.dmemSize ∧ s.setkeyVerdict = .ok) := by
  by_cases h : s.srcLen = 32
  · by_cases hr : s.srcAddr + 32 ≤ s.cfg.dmemSize
    · simp [State.setkeyVerdict, State.inRange, h, hr]
    · have := Nat.lt_of_not_le hr
      simp [State.setkeyVerdict, State.inRange, h, this]
  · simp [State.setkeyVerdict, h]

/-- The outcomes of the `ENC` and `DEC` checks (R202). -/
theorem State.blockVerdict_cases (s : State) (valid : Bool) (bs : Nat) :
    (valid = false ∧ s.blockVerdict valid bs = .fault .keyNotLoaded) ∨
    (valid = true ∧ ¬ s.BlockBuffersFit bs ∧ s.blockVerdict valid bs = .fault .boundsFault) ∨
    (valid = true ∧ s.BlockBuffersFit bs ∧ s.blockVerdict valid bs = .ok) := by
  cases valid with
  | false => simp [State.blockVerdict]
  | true =>
    by_cases h : s.BlockBuffersFit bs
    · obtain ⟨h1, h2, h3, h4⟩ := h
      have h5 : ¬ s.dstLen < bs := Nat.not_lt.mpr h2
      simp [State.blockVerdict, State.BlockBuffersFit, State.srcInRange, State.dstInRange,
        State.inRange, h1, h2, h4, h5, h1 ▸ h3]
    · right; left
      refine ⟨rfl, h, ?_⟩
      by_cases h1 : s.srcLen = bs
      · by_cases h2 : s.dstLen < bs
        · simp [State.blockVerdict, h2]
        · have h3 : ¬ (s.srcAddr + s.srcLen ≤ s.cfg.dmemSize ∧
              s.dstAddr + s.dstLen ≤ s.cfg.dmemSize) := by
            intro hc; exact h ⟨h1, Nat.not_lt.mp h2, hc.1, hc.2⟩
          have h4 : (¬ s.srcInRange = true) ∨ ¬ s.dstInRange = true := by
            simp only [State.srcInRange, State.dstInRange, State.inRange_iff]
            exact Classical.not_and_iff_not_or_not.mp h3
          simp only [State.blockVerdict, not_true_eq_false, if_false, if_neg (not_not.mpr h1),
            if_neg h2, if_pos h4]
      · simp [State.blockVerdict, h1]

/-- The outcomes of the checks of `PAD.ADD` (R186). -/
theorem State.padAddVerdict_cases (s : State) :
    (s.padBs = 0 ∧ s.padAddVerdict = .fault .invalidBlockSize) ∨
    (s.padBs ≠ 0 ∧ ¬ (s.srcAddr + s.srcLen ≤ s.cfg.dmemSize ∧ s.paddedLen ≤ s.dstLen ∧
        s.dstAddr + s.dstLen ≤ s.cfg.dmemSize) ∧ s.padAddVerdict = .fault .boundsFault) ∨
    (s.padBs ≠ 0 ∧ s.srcAddr + s.srcLen ≤ s.cfg.dmemSize ∧ s.paddedLen ≤ s.dstLen ∧
        s.dstAddr + s.dstLen ≤ s.cfg.dmemSize ∧ s.padAddVerdict = .ok) := by
  by_cases h0 : s.padBs = 0
  · simp [State.padAddVerdict, h0]
  · by_cases h1 : s.srcAddr + s.srcLen ≤ s.cfg.dmemSize
    · by_cases h2 : s.paddedLen ≤ s.dstLen
      · by_cases h3 : s.dstAddr + s.dstLen ≤ s.cfg.dmemSize
        · simp [State.padAddVerdict, State.srcInRange, State.dstInRange, State.inRange, h0, h1, h3,
            Nat.not_lt.mpr h2, h2]
        · simp [State.padAddVerdict, State.srcInRange, State.dstInRange, State.inRange, h0, h1, h3,
            Nat.not_lt.mpr h2]
      · simp [State.padAddVerdict, State.srcInRange, State.inRange, h0, h1, h2,
            Nat.lt_of_not_le h2]
    · simp [State.padAddVerdict, State.srcInRange, State.inRange, h0, h1]

/-- The outcomes of the checks of `PAD.REM` (R187). -/
theorem State.padRemVerdict_cases (s : State) :
    (s.cfg.dmemSize < s.srcAddr + s.srcLen ∧ s.padRemVerdict = .fault .boundsFault) ∨
    (s.srcAddr + s.srcLen ≤ s.cfg.dmemSize ∧ lastMarker s.padData = none ∧
        s.padRemVerdict = .error .paddingNotFound) ∨
    (s.srcAddr + s.srcLen ≤ s.cfg.dmemSize ∧ (∃ j, lastMarker s.padData = some j) ∧
        s.padRemVerdict = .ok) := by
  by_cases h : s.srcAddr + s.srcLen ≤ s.cfg.dmemSize
  · cases hm : lastMarker s.padData <;>
      simp [State.padRemVerdict, State.srcInRange, State.inRange, h, hm]
  · have := Nat.lt_of_not_le h
    simp [State.padRemVerdict, State.srcInRange, State.inRange, this]

end Sys2Proof.Machine
end

