-- ==== Sys2Proof/Laws/Decode.lean ====
section
/-! SUPPORT. The fields of a word built from fields (spec/30_encoding.md R70), and the word built from
its own fields. -/

namespace Sys2Proof

variable (op : Byte) (ciph : BitVec 2) (std : BitVec 1) (z : BitVec 5) (a b : Byte)

/-- A word built from fields, as a number (R70). -/
theorem toNat_wordOfFields : (wordOfFields op ciph std z a b).toNat
    = op.toNat + 2 ^ 8 * ciph.toNat + 2 ^ 10 * std.toNat + 2 ^ 11 * z.toNat + 2 ^ 16 * a.toNat
      + 2 ^ 24 * b.toNat := by
  have h0 := op.isLt
  have h1 := ciph.isLt
  have h2 := std.isLt
  have h3 := z.isLt
  have h4 := a.isLt
  simp only [wordOfFields, BitVec.toNat_append]
  rw [← Nat.shiftLeft_add_eq_or_of_lt h4, ← Nat.shiftLeft_add_eq_or_of_lt h3,
    ← Nat.shiftLeft_add_eq_or_of_lt h2, ← Nat.shiftLeft_add_eq_or_of_lt h1,
    ← Nat.shiftLeft_add_eq_or_of_lt h0]
  simp only [Nat.shiftLeft_eq]
  omega

@[simp] theorem fieldOp_wordOfFields : fieldOp (wordOfFields op ciph std z a b) = op := by
  apply BitVec.eq_of_toNat_eq
  have := op.isLt
  simp only [fieldOp, BitVec.extractLsb'_toNat, toNat_wordOfFields, Nat.shiftRight_eq_div_pow]
  omega

@[simp] theorem fieldCiph_wordOfFields : fieldCiph (wordOfFields op ciph std z a b) = ciph := by
  apply BitVec.eq_of_toNat_eq
  have := op.isLt
  have := ciph.isLt
  simp only [fieldCiph, BitVec.extractLsb'_toNat, toNat_wordOfFields, Nat.shiftRight_eq_div_pow]
  omega

@[simp] theorem fieldStd_wordOfFields : fieldStd (wordOfFields op ciph std z a b) = std := by
  apply BitVec.eq_of_toNat_eq
  have := op.isLt
  have := ciph.isLt
  have := std.isLt
  simp only [fieldStd, BitVec.extractLsb'_toNat, toNat_wordOfFields, Nat.shiftRight_eq_div_pow]
  omega

@[simp] theorem fieldZ_wordOfFields : fieldZ (wordOfFields op ciph std z a b) = z := by
  apply BitVec.eq_of_toNat_eq
  have := op.isLt
  have := ciph.isLt
  have := std.isLt
  have := z.isLt
  simp only [fieldZ, BitVec.extractLsb'_toNat, toNat_wordOfFields, Nat.shiftRight_eq_div_pow]
  omega

@[simp] theorem fieldA_wordOfFields : fieldA (wordOfFields op ciph std z a b) = a := by
  apply BitVec.eq_of_toNat_eq
  have := op.isLt
  have := ciph.isLt
  have := std.isLt
  have := z.isLt
  have := a.isLt
  simp only [fieldA, BitVec.extractLsb'_toNat, toNat_wordOfFields, Nat.shiftRight_eq_div_pow]
  omega

@[simp] theorem fieldB_wordOfFields : fieldB (wordOfFields op ciph std z a b) = b := by
  apply BitVec.eq_of_toNat_eq
  have := op.isLt
  have := ciph.isLt
  have := std.isLt
  have := z.isLt
  have := a.isLt
  have := b.isLt
  simp only [fieldB, BitVec.extractLsb'_toNat, toNat_wordOfFields, Nat.shiftRight_eq_div_pow]
  omega

/-- Every word is the word of its own fields (R70). -/
theorem wordOfFields_fields (w : Word) :
    wordOfFields (fieldOp w) (fieldCiph w) (fieldStd w) (fieldZ w) (fieldA w) (fieldB w) = w := by
  apply BitVec.eq_of_toNat_eq
  have := w.isLt
  simp only [toNat_wordOfFields, fieldOp, fieldCiph, fieldStd, fieldZ, fieldA, fieldB,
    BitVec.extractLsb'_toNat, Nat.shiftRight_eq_div_pow]
  omega

/-- Bits 15:8 of a word built from fields (R72, R73). -/
theorem selectorZero_wordOfFields :
    selectorZero (wordOfFields op ciph std z a b) = (ciph == 0#2 && std == 0#1 && z == 0#5) := by
  have h0 := op.isLt
  have h1 := ciph.isLt
  have h2 := std.isLt
  have h3 := z.isLt
  rw [Bool.eq_iff_iff]
  simp only [selectorZero, beq_iff_eq, Bool.and_eq_true, ← BitVec.toNat_inj,
    BitVec.extractLsb'_toNat, toNat_wordOfFields, Nat.shiftRight_eq_div_pow, BitVec.toNat_ofNat]
  omega

end Sys2Proof
end

