-- ==== Sys2Proof/Laws/PerInstr.lean ====
section
/-! SUPPORT. The family `RowFits`, one lemma per constructor: the word `encode` gives a command has
the bits its row of the opcode map fixes (spec/30_encoding.md R74), and its operand bytes in the
fields `A` and `B` (R77). -/

namespace Sys2Proof.Laws

/-- The encoder's word selects the command's row of the opcode map (R74). -/
abbrev RowFits.Statement (i : Instr) : Prop := encode i &&& rowMask i = rowMatch i

/-- `encode` and the row of `GFMUL`, whose operand bytes the mask leaves out. -/
theorem gfmul_fits (a b : Byte) :
    wordOfFields 0x10 0 0 0 a b &&& 0x0000FFFF#32 = 0x00000010#32 := by
  apply BitVec.eq_of_toNat_eq
  have h : (0x0000FFFF#32).toNat = 2 ^ 16 - 1 := rfl
  rw [BitVec.toNat_and, h, Nat.and_two_pow_sub_one_eq_mod, toNat_wordOfFields]
  have := a.isLt
  have := b.isLt
  simp only [BitVec.toNat_ofNat, BitVec.ofNat_eq_ofNat]
  omega

theorem RowFits.kuzBlksz : RowFits.Statement .kuzBlksz := by decide
theorem RowFits.magBlksz : RowFits.Statement .magBlksz := by decide
theorem RowFits.magBlkszStd : RowFits.Statement .magBlkszStd := by decide
theorem RowFits.kuzSetkey : RowFits.Statement .kuzSetkey := by decide
theorem RowFits.magSetkey : RowFits.Statement .magSetkey := by decide
theorem RowFits.magSetkeyStd : RowFits.Statement .magSetkeyStd := by decide
theorem RowFits.kuzEnc : RowFits.Statement .kuzEnc := by decide
theorem RowFits.magEnc : RowFits.Statement .magEnc := by decide
theorem RowFits.magEncStd : RowFits.Statement .magEncStd := by decide
theorem RowFits.kuzDec : RowFits.Statement .kuzDec := by decide
theorem RowFits.magDec : RowFits.Statement .magDec := by decide
theorem RowFits.magDecStd : RowFits.Statement .magDecStd := by decide
theorem RowFits.gfmul (a b : Byte) : RowFits.Statement (.gfmul a b) := gfmul_fits a b
theorem RowFits.sub (a : Byte) : RowFits.Statement (.sub a) := by
  revert a; decide +kernel
theorem RowFits.subinv (a : Byte) : RowFits.Statement (.subinv a) := by
  revert a; decide +kernel
theorem RowFits.padAdd : RowFits.Statement .padAdd := by decide
theorem RowFits.padRem : RowFits.Statement .padRem := by decide

end Sys2Proof.Laws
end

