-- ==== Sys2Proof/Laws/Port.lean ====
section
/-! SUPPORT. What a command does to the parts of the state no verdict decides, what a command word
does, and what one step can do (spec/44_contract.md R200, spec/30_encoding.md R80). -/

namespace Sys2Proof.Machine

/-- The outcome of the checks of each command (R208, R229). -/
def verdictOf (s : State) : Instr → Verdict
  | .kuzBlksz | .magBlksz | .magBlkszStd => .ok
  | .kuzSetkey | .magSetkey | .magSetkeyStd => s.setkeyVerdict
  | .kuzEnc | .kuzDec => s.blockVerdict s.kv 16
  | .magEnc | .magEncStd | .magDec | .magDecStd => s.blockVerdict s.mv 8
  | .gfmul _ _ | .sub _ | .subinv _ => .ok
  | .padAdd => s.padAddVerdict
  | .padRem => s.padRemVerdict

/-- The writes of each command when its checks pass, but for `ERR` (R208). -/
def effectOf (s : State) : Instr → State
  | .kuzBlksz => s.setResult 16
  | .magBlksz => s.setResult 8
  | .magBlkszStd => s.setResult 8
  | .kuzSetkey => s.loadKuz (kuzSchedule s.cfg s.readKey)
  | .magSetkey => s.loadMag (magKeyWords s.readKey)
  | .magSetkeyStd => s.loadMag (magKeyWords (wordrev s.readKey))
  | .kuzEnc => s.writeBlock (kuzEncrypt s.cfg s.kuzRk (s.readBlock 16))
  | .kuzDec => s.writeBlock (kuzDecrypt s.cfg s.kuzRk (s.readBlock 16))
  | .magEnc => s.writeBlock (magEncrypt s.cfg s.magK (s.readBlock 8))
  | .magEncStd => s.writeBlock (magEncryptStd s.cfg s.magK (s.readBlock 8))
  | .magDec => s.writeBlock (magDecrypt s.cfg s.magK (s.readBlock 8))
  | .magDecStd => s.writeBlock (magDecryptStd s.cfg s.magK (s.readBlock 8))
  | .gfmul a b => s.setResult (zextByte (gfmul a b))
  | .sub a => s.setResult (zextByte (substitute s.cfg a))
  | .subinv a => s.setResult (zextByte (inverseSubstitute s.cfg a))
  | .padAdd => (s.memWrite s.dstAddr (addPadding s.padData s.padBs)).setResult
      (BitVec.ofNat 32 s.paddedLen)
  | .padRem => s.setResult (BitVec.ofNat 32 ((lastMarker s.padData).getD 0))

/-- Every meaning has the one shape of a command (R200). -/
theorem exec_eq_command (i : Instr) (s : State) :
    exec i s = command i (verdictOf s i) (effectOf s i) s := by
  cases i <;> rfl

/-- In the faulted state every command is ignored (R231). -/
theorem exec_faulted {s : State} (h : s.fault ≠ 0#32) (i : Instr) : exec i s = .next s := by
  rw [exec_eq_command, command_faulted h]

/-- A command always gives a next state (R9, R233). -/
theorem exec_next (i : Instr) (s : State) : ∃ t, exec i s = .next t := by
  rw [exec_eq_command]
  rcases command_cases i (verdictOf s i) (effectOf s i) s with
    ⟨_, h⟩ | ⟨_, _, h⟩ | ⟨_, _, _, h⟩ | ⟨_, _, _, h⟩ <;> exact ⟨_, h⟩

/-- Everything a command word can do (R200): ignored, illegal, or the rule of its command. -/
theorem executeWord_cases (w : Word) (s : State) :
    (s.fault ≠ 0#32 ∧ executeWord w s = .next s) ∨
    (s.fault = 0#32 ∧ (∃ r, decode w = .error r) ∧
      executeWord w s = .next (s.raiseFault .illegalCommand w)) ∨
    (s.fault = 0#32 ∧ ∃ i, decode w = .ok i ∧ executeWord w s = exec i s) := by
  by_cases h : s.fault = 0#32
  · have hf := (State.faulted_eq_false_iff s).mpr h
    cases hd : decode w <;> simp [executeWord, hf, h, hd]
  · exact .inl ⟨h, by simp [executeWord, (State.faulted_iff s).mpr h]⟩

/-- A word that decodes to a command runs that command, in every state. -/
theorem executeWord_of_decode {w : Word} {i : Instr} (hd : decode w = .ok i) (s : State) :
    executeWord w s = exec i s := by
  by_cases h : s.fault = 0#32
  · simp [executeWord, (State.faulted_eq_false_iff s).mpr h, hd]
  · rw [exec_faulted h, executeWord, if_pos ((State.faulted_iff s).mpr h)]

/-- A command word always gives a next state (R9, R200). -/
theorem executeWord_next (w : Word) (s : State) : ∃ t, executeWord w s = .next t := by
  rcases executeWord_cases w s with ⟨_, h⟩ | ⟨_, _, h⟩ | ⟨_, i, _, h⟩
  · exact ⟨_, h⟩
  · exact ⟨_, h⟩
  · rw [h]; exact exec_next i s

/-- A host action always gives a next state (R80). -/
theorem hostAction_next (s : State) (a : HostAction s.cfg.dmemSize) : ∃ t, hostAction s a = .next t := by
  obtain ⟨r, h⟩ := a
  cases r with
  | wr r v =>
    cases r
    case cmd => exact executeWord_next v s
    all_goals exact ⟨_, rfl⟩
  | rd r => exact ⟨_, rfl⟩
  | mw a bs => exact ⟨_, rfl⟩
  | mr a n => exact ⟨_, rfl⟩
  | reset => exact ⟨_, rfl⟩

/-- The step that takes the action `r` off the script (R33, R80). -/
theorem step_cons {s : State} {r : HostRequest} {rest : List HostRequest} (h : s.script = r :: rest)
    (hr : r.inInterface s.cfg.dmemSize = true) : step s = hostAction (s.advance rest) ⟨r, hr⟩ := by
  simp [step, portStep, h, hr]

/-- The step that meets a request outside the interface (R80, D34). -/
theorem step_outside {s : State} {r : HostRequest} {rest : List HostRequest}
    (h : s.script = r :: rest) (hr : r.inInterface s.cfg.dmemSize = false) :
    step s = .refused .hostAddressOutsideDmem := by
  simp [step, portStep, h, hr]

/-- Everything one step can do: with nothing asked for nothing, else the effect of the next action, or
a refusal where the request is no action (R59, R80). -/
theorem step_cases (s : State) :
    (s.script = [] ∧ step s = .next s) ∨
    (∃ (r : HostRequest) (rest : List HostRequest) (hr : r.inInterface s.cfg.dmemSize = true),
      s.script = r :: rest ∧ step s = hostAction (s.advance rest) ⟨r, hr⟩) ∨
    (∃ (r : HostRequest) (rest : List HostRequest), s.script = r :: rest ∧
      r.inInterface s.cfg.dmemSize = false ∧ step s = .refused .hostAddressOutsideDmem) := by
  cases h : s.script with
  | nil => exact .inl ⟨rfl, by simp [step, portStep, h]⟩
  | cons r rest =>
    cases hr : r.inInterface s.cfg.dmemSize with
    | true => exact .inr (.inl ⟨r, rest, hr, rfl, step_cons h hr⟩)
    | false => exact .inr (.inr ⟨r, rest, rfl, hr, step_outside h hr⟩)

/-- `withFetchWord` puts the command word before the script (R23). -/
@[simp] theorem State.withFetchWord_script (s : State) (nbits w : Nat) :
    (s.withFetchWord nbits w).script
      = HostRequest.wr .cmd (BitVec.ofNat 32 (w % 2 ^ nbits)) :: s.script := rfl

end Sys2Proof.Machine
end

