-- ==== Sys2Proof/Tests/Slice0.lean ====
section
/-! SUPPORT. The model's own tests, their expected values from spec/95_test_vectors.md and from the
encodings of spec/30_encoding.md, and one witness for each statement that has hypotheses: a concrete
state and operands that meet them. -/

namespace Sys2Proof.Tests
open Sys2Proof Sys2Proof.Machine

-- One theorem at a time: kernel evaluations that wait for one another would each hold a thread.
set_option Elab.async false

/-! ### Decoding: every word written out from the opcode map (R74, 95 section 6) -/

theorem test_decode_format_k_kuz :
    decode 0b00000000_00000000_00000000_00000001#32 = .ok .kuzBlksz ∧
    decode 0b00000000_00000000_00000000_00000010#32 = .ok .kuzSetkey ∧
    decode 0b00000000_00000000_00000000_00000011#32 = .ok .kuzEnc ∧
    decode 0b00000000_00000000_00000000_00000100#32 = .ok .kuzDec := by decide

theorem test_decode_format_k_mag :
    decode 0b00000000_00000000_00000001_00000001#32 = .ok .magBlksz ∧
    decode 0b00000000_00000000_00000001_00000010#32 = .ok .magSetkey ∧
    decode 0b00000000_00000000_00000001_00000011#32 = .ok .magEnc ∧
    decode 0b00000000_00000000_00000001_00000100#32 = .ok .magDec := by decide

theorem test_decode_format_k_mag_std :
    decode 0b00000000_00000000_00000101_00000001#32 = .ok .magBlkszStd ∧
    decode 0b00000000_00000000_00000101_00000010#32 = .ok .magSetkeyStd ∧
    decode 0b00000000_00000000_00000101_00000011#32 = .ok .magEncStd ∧
    decode 0b00000000_00000000_00000101_00000100#32 = .ok .magDecStd := by decide

theorem test_decode_format_t :
    decode 0b11111111_00000001_00000000_00010000#32 = .ok (.gfmul 0x01 0xFF) ∧
    decode 0b00000000_11111111_00000000_00010001#32 = .ok (.sub 0xFF) ∧
    decode 0b00000000_11111100_00000000_00010010#32 = .ok (.subinv 0xFC) := by decide

theorem test_decode_format_p :
    decode 0b00000000_00000000_00000000_00100000#32 = .ok .padAdd ∧
    decode 0b00000000_00000000_00000000_00100001#32 = .ok .padRem := by decide

/-- The illegal words of 95 section 6, one for each reason the section names. -/
theorem test_decode_illegal :
    decode 0x00000000 = .error .unknownOp ∧ decode 0x00000005 = .error .unknownOp ∧
    decode 0x00000401 = .error .noWrapper ∧ decode 0x00000201 = .error .reservedCipher ∧
    decode 0x00000301 = .error .reservedCipher ∧ decode 0x00000803 = .error .reservedZ ∧
    decode 0x00008003 = .error .reservedZ ∧ decode 0x00010003 = .error .operandNotZero ∧
    decode 0x01000003 = .error .operandNotZero ∧ decode 0x00000110 = .error .selectorNotZero ∧
    decode 0x01000011 = .error .operandNotZero ∧ decode 0x01000012 = .error .operandNotZero ∧
    decode 0x00000120 = .error .selectorNotZero ∧ decode 0x00010021 = .error .operandNotZero ∧
    decode 0x00000013 = .error .unknownOp ∧ decode 0x00000022 = .error .unknownOp ∧
    decode 0x000000FF = .error .unknownOp ∧ decode 0xFFFFFFFF = .error .unknownOp ∧
    decode 0xDEADBEEF = .error .unknownOp := by decide

theorem test_decodeTableWord :
    decodeTableWord 32 0x94940010 = some (.gfmul 0x94 0x94) ∧
    decodeTableWord 32 0x00000401 = none := by decide

/-! ### The configuration: what WellFormed refuses (R4, R30, R50, R151) -/

/-- The default `PI` is a permutation (R104). -/
theorem test_default_piOk : defaultConfig.piOk = true := by decide +kernel

/-- The default configuration passes every check, with 64 bytes of `DMEM` as well. -/
theorem test_default_wellFormed :
    defaultConfig.wellFormed = true ∧ { defaultConfig with dmemSize := 64 }.wellFormed = true := by
  have h : { defaultConfig with dmemSize := 64 }.piOk = true := test_default_piOk
  simp only [Config.wellFormed, test_default_piOk, h, Bool.and_true]
  decide

/-- `DMEM_SIZE` 47 and 2^32 + 1 are refused, 48 and 2^32 are not. -/
theorem test_refuses_dmemSize :
    { defaultConfig with dmemSize := 47 }.dmemSizeOk = false ∧
    { defaultConfig with dmemSize := 2 ^ 32 + 1 }.dmemSizeOk = false ∧
    { defaultConfig with dmemSize := 48 }.dmemSizeOk = true ∧
    { defaultConfig with dmemSize := 2 ^ 32 }.dmemSizeOk = true := by decide

/-- A `PI` whose first two rows are the same is refused. -/
theorem test_refuses_piRows :
    { defaultConfig with piRows := defaultPi.set 1 defaultPi[0] }.piOk = false := by decide +kernel

/-- An `MSB` table that holds 0 sixteen times is refused. -/
theorem test_refuses_msb :
    { defaultConfig with msb := defaultMsb.set 7 (Vector.replicate 16 0) }.msbOk = false := by
  decide

/-- A configuration that fails one check fails the whole. -/
theorem test_refuses_whole :
    { defaultConfig with dmemSize := 47 }.wellFormed = false := by decide

/-! ### The tables and the ciphers (95 sections 2 and 3) -/

/-- The products of 95 section 2.1. -/
theorem test_gfmul :
    gfmul 0x02 0x40 = 0x80 ∧ gfmul 0x80 0x80 = 0x77 ∧ gfmul 0xFF 0xFF = 0x06 ∧
    gfmul 0x03 0xC3 = 0x86 ∧ gfmul 0xFB 0xFB = 0x16 ∧ gfmul 0xC2 0x85 = 0x22 ∧
    gfmul 0x02 0xE1 = 0x01 := by decide

/-- The entries of 95 section 2.2. -/
theorem test_substitution :
    substitute defaultConfig 0x7F = 0x57 ∧ substitute defaultConfig 0xA5 = 0x00 ∧
    inverseSubstitute defaultConfig 0xB6 = 0xFF ∧ inverseSubstitute defaultConfig 0x10 = 0x64 := by
  decide +kernel

/-- `KC[0]` and `KC[31]` (R128). -/
theorem test_constants :
    kuzConst defaultConfig 0 = #v[0x6e, 0xa2, 0x76, 0x72, 0x6c, 0x48, 0x7a, 0xb8,
      0x5d, 0x27, 0xbd, 0x10, 0xdd, 0x84, 0x94, 0x01] ∧
    kuzConst defaultConfig 31 = #v[0x5e, 0xa7, 0xd8, 0x58, 0x1e, 0x14, 0x9b, 0x61,
      0xf1, 0x6a, 0xc1, 0x45, 0x9c, 0xed, 0xa8, 0x20] := by decide +kernel

/-- The key of vector V1. -/
def v1Key : Key :=
  #v[0x88, 0x99, 0xaa, 0xbb, 0xcc, 0xdd, 0xee, 0xff, 0x00, 0x11, 0x22, 0x33, 0x44, 0x55, 0x66, 0x77,
    0xfe, 0xdc, 0xba, 0x98, 0x76, 0x54, 0x32, 0x10, 0x01, 0x23, 0x45, 0x67, 0x89, 0xab, 0xcd, 0xef]

/-- The round keys of vector V1 (95 section 2.5). -/
def v1Bank : KuzBank := #v[
  #v[0x88, 0x99, 0xaa, 0xbb, 0xcc, 0xdd, 0xee, 0xff, 0x00, 0x11, 0x22, 0x33, 0x44, 0x55, 0x66, 0x77],
  #v[0xfe, 0xdc, 0xba, 0x98, 0x76, 0x54, 0x32, 0x10, 0x01, 0x23, 0x45, 0x67, 0x89, 0xab, 0xcd, 0xef],
  #v[0xdb, 0x31, 0x48, 0x53, 0x15, 0x69, 0x43, 0x43, 0x22, 0x8d, 0x6a, 0xef, 0x8c, 0xc7, 0x8c, 0x44],
  #v[0x3d, 0x45, 0x53, 0xd8, 0xe9, 0xcf, 0xec, 0x68, 0x15, 0xeb, 0xad, 0xc4, 0x0a, 0x9f, 0xfd, 0x04],
  #v[0x57, 0x64, 0x64, 0x68, 0xc4, 0x4a, 0x5e, 0x28, 0xd3, 0xe5, 0x92, 0x46, 0xf4, 0x29, 0xf1, 0xac],
  #v[0xbd, 0x07, 0x94, 0x35, 0x16, 0x5c, 0x64, 0x32, 0xb5, 0x32, 0xe8, 0x28, 0x34, 0xda, 0x58, 0x1b],
  #v[0x51, 0xe6, 0x40, 0x75, 0x7e, 0x87, 0x45, 0xde, 0x70, 0x57, 0x27, 0x26, 0x5a, 0x00, 0x98, 0xb1],
  #v[0x5a, 0x79, 0x25, 0x01, 0x7b, 0x9f, 0xdd, 0x3e, 0xd7, 0x2a, 0x91, 0xa2, 0x22, 0x86, 0xf9, 0x84],
  #v[0xbb, 0x44, 0xe2, 0x53, 0x78, 0xc7, 0x31, 0x23, 0xa5, 0xf3, 0x2f, 0x73, 0xcd, 0xb6, 0xe5, 0x17],
  #v[0x72, 0xe9, 0xdd, 0x74, 0x16, 0xbc, 0xf4, 0x5b, 0x75, 0x5d, 0xba, 0xa8, 0x8e, 0x4a, 0x40, 0x43]]

/-- Vector V1: the schedule (R4 asks a model to check V1 against its tables). -/
theorem test_v1_schedule : kuzSchedule defaultConfig v1Key = v1Bank := by decide +kernel

/-- The key words of the Magma example, both conventions (R150, R160). -/
def magBank : MagBank :=
  #v[0xccddeeff, 0x8899aabb, 0x44556677, 0x00112233, 0xf3f2f1f0, 0xf7f6f5f4, 0xfbfaf9f8, 0xfffefdfc]

def magBankStd : MagBank :=
  #v[0xffeeddcc, 0xbbaa9988, 0x77665544, 0x33221100, 0xf0f1f2f3, 0xf4f5f6f7, 0xf8f9fafb, 0xfcfdfeff]

/-! ### The commands -/

/-- The next state of an outcome. -/
def nextOf : Result → Option State
  | .next t => some t
  | .fault _ => none
  | .refused _ => none

/-- A core with 64 bytes of `DMEM`, `bs` written from address 0 on, and the given operands. -/
def core64 (bs : List Byte) (x0 x1 x2 x3 x4 : Word) : State :=
  { State.reset with
    x0 := x0, x1 := x1, x2 := x2, x3 := x3, x4 := x4
    cfg := { defaultConfig with dmemSize := 64 }
    dmem := Memory.setBytes [] 0 bs }

/-- `core64` with a Kuznyechik key loaded. -/
def kuzCore (bs : List Byte) (x0 x1 x2 x3 : Word) : State := (core64 bs x0 x1 x2 x3 0).loadKuz v1Bank

/-- `core64` with the Magma context `k` loaded. -/
def magCore (k : MagBank) (bs : List Byte) (x0 x1 x2 x3 : Word) : State :=
  (core64 bs x0 x1 x2 x3 0).loadMag k

/-- A state with the given host requests to come. -/
def scripted (s : State) (script : List HostRequest) : State := { s with script := script }

/-- `ERR`, `FAULT`, `FINFO` and `x[5]` after a command. -/
def report (r : Result) : Option (Word × Word × Word × Word) :=
  (nextOf r).map fun t => (t.err, t.fault, t.finfo, t.x5)

/-- The bytes of `DMEM` after a command. -/
def dmemAfter (r : Result) (a n : Nat) : Option (List Byte) := (nextOf r).map fun t => t.memRead a n

theorem test_blksz :
    report (exec .kuzBlksz State.reset) = some (0, 0, 0, 16) ∧
    report (exec .magBlksz State.reset) = some (0, 0, 0, 8) ∧
    report (exec .magBlkszStd State.reset) = some (0, 0, 0, 8) := by decide

/-- The examples of R110, R111, R112. -/
theorem test_table_commands :
    report (exec (.gfmul 0x94 0x94) State.reset) = some (0, 0, 0, 0xA4) ∧
    report (exec (.sub 0xFF) State.reset) = some (0, 0, 0, 0xB6) ∧
    report (exec (.subinv 0x00) State.reset) = some (0, 0, 0, 0xA5) := by decide +kernel

/-- 95 section 7, rows 5, 6, 8: the length decides first; the range has no wrap. -/
theorem test_setkey_checks :
    report (exec .kuzSetkey (core64 [] 4000000000 31 0 0 0)) = some (1, 0, 0, 0) ∧
    report (exec .kuzSetkey (core64 [] 33 32 0 0 0)) = some (0, 3, 0x00000002, 0) ∧
    report (exec .magSetkey (core64 [] 4294967295 32 0 0 0)) = some (0, 3, 0x00000102, 0) ∧
    report (exec .magSetkeyStd (core64 [] 0 33 0 0 0)) = some (1, 0, 0, 0) := by decide

/-- `MAG.SETKEY` and `MAG.SETKEY.STD` load the words of R150 and R160, from the last legal address. -/
theorem test_mag_setkey :
    ((nextOf (exec .magSetkey (core64 (List.replicate 32 0 ++
      [0xff, 0xee, 0xdd, 0xcc, 0xbb, 0xaa, 0x99, 0x88, 0x77, 0x66, 0x55, 0x44, 0x33, 0x22, 0x11, 0x00,
       0xf0, 0xf1, 0xf2, 0xf3, 0xf4, 0xf5, 0xf6, 0xf7, 0xf8, 0xf9, 0xfa, 0xfb, 0xfc, 0xfd, 0xfe, 0xff])
      32 32 0 0 0))).map fun t => (t.mv, t.magK)) = some (true, magBank) ∧
    ((nextOf (exec .magSetkeyStd (core64
      [0xff, 0xee, 0xdd, 0xcc, 0xbb, 0xaa, 0x99, 0x88, 0x77, 0x66, 0x55, 0x44, 0x33, 0x22, 0x11, 0x00,
       0xf0, 0xf1, 0xf2, 0xf3, 0xf4, 0xf5, 0xf6, 0xf7, 0xf8, 0xf9, 0xfa, 0xfb, 0xfc, 0xfd, 0xfe, 0xff]
      0 32 0 0 0))).map fun t => (t.mv, t.magK)) = some (true, magBankStd) := by decide +kernel

/-- `KUZ.SETKEY` writes the first two round keys and the valid bit. -/
theorem test_kuz_setkey :
    ((nextOf (exec .kuzSetkey (core64 v1Key.toList 0 32 0 0 0))).map fun t =>
      (t.kv, t.kuzRk[0], t.kuzRk[1])) = some (true, v1Bank[0], v1Bank[1]) := by decide +kernel

/-- Vector V1 through `KUZ.ENC`, with a destination larger than a block. -/
theorem test_kuz_enc :
    dmemAfter (exec .kuzEnc (kuzCore [0x11, 0x22, 0x33, 0x44, 0x55, 0x66, 0x77, 0x00,
        0xff, 0xee, 0xdd, 0xcc, 0xbb, 0xaa, 0x99, 0x88] 0 16 40 24)) 40 16
      = some [0x7f, 0x67, 0x9d, 0x90, 0xbe, 0xbc, 0x24, 0x30,
        0x5a, 0x46, 0x8d, 0x42, 0xb9, 0xd4, 0xed, 0xcd] := by decide +kernel

/-- Vector V1 backwards through `KUZ.DEC`, in place. -/
theorem test_kuz_dec :
    dmemAfter (exec .kuzDec (kuzCore [0x7f, 0x67, 0x9d, 0x90, 0xbe, 0xbc, 0x24, 0x30,
        0x5a, 0x46, 0x8d, 0x42, 0xb9, 0xd4, 0xed, 0xcd] 0 16 0 16)) 0 16
      = some [0x11, 0x22, 0x33, 0x44, 0x55, 0x66, 0x77, 0x00,
        0xff, 0xee, 0xdd, 0xcc, 0xbb, 0xaa, 0x99, 0x88] := by decide +kernel

/-- 95 section 7, rows 10, 14, 15, 16, 17, 18. -/
theorem test_kuz_faults :
    report (exec .kuzEnc (core64 [] 0 16 16 16 0)) = some (0, 2, 0x00000003, 0) ∧
    report (exec .kuzEnc (kuzCore [] 0 15 0 16)) = some (0, 3, 0x00000003, 0) ∧
    report (exec .kuzDec (kuzCore [] 0 17 0 16)) = some (0, 3, 0x00000004, 0) ∧
    report (exec .kuzEnc (kuzCore [] 0 16 0 15)) = some (0, 3, 0x00000003, 0) ∧
    report (exec .kuzEnc (kuzCore [] 0 16 49 16)) = some (0, 3, 0x00000003, 0) ∧
    report (exec .kuzEnc (kuzCore [] 0 16 40 32)) = some (0, 3, 0x00000003, 0) := by decide

/-- The examples of R163 and R164; the encryption is in place in the last 8 bytes. -/
theorem test_mag_enc_dec :
    dmemAfter (exec .magEnc (magCore magBank (List.replicate 56 0 ++
        [0xfe, 0xdc, 0xba, 0x98, 0x76, 0x54, 0x32, 0x10]) 56 8 56 8)) 56 8
      = some [0x8f, 0xc6, 0xfe, 0xb8, 0x91, 0x51, 0x4c, 0x37] ∧
    dmemAfter (exec .magDec (magCore magBank
        [0x8f, 0xc6, 0xfe, 0xb8, 0x91, 0x51, 0x4c, 0x37] 0 8 8 8)) 8 8
      = some [0xfe, 0xdc, 0xba, 0x98, 0x76, 0x54, 0x32, 0x10] := by decide +kernel

/-- The examples of R166 and R167. -/
theorem test_mag_std_enc_dec :
    dmemAfter (exec .magEncStd (magCore magBankStd
        [0xfe, 0xdc, 0xba, 0x98, 0x76, 0x54, 0x32, 0x10] 0 8 8 8)) 8 8
      = some [0x4e, 0xe9, 0x01, 0xe5, 0xc2, 0xd8, 0xca, 0x3d] ∧
    dmemAfter (exec .magDecStd (magCore magBankStd
        [0x4e, 0xe9, 0x01, 0xe5, 0xc2, 0xd8, 0xca, 0x3d] 0 8 8 8)) 8 8
      = some [0xfe, 0xdc, 0xba, 0x98, 0x76, 0x54, 0x32, 0x10] := by decide +kernel

/-- 95 section 7, rows 11, 21, 22. -/
theorem test_mag_faults :
    report (exec .magDecStd (core64 [] 0 0 0 0 0)) = some (0, 2, 0x00000504, 0) ∧
    report (exec .magEnc (magCore magBank [] 57 8 0 8)) = some (0, 3, 0x00000103, 0) ∧
    report (exec .magEncStd (magCore magBank [] 0 16 0 16)) = some (0, 3, 0x00000503, 0) := by
  decide

/-- The example of R186, in place; and 95 section 7, row 30. -/
theorem test_pad_add :
    dmemAfter (exec .padAdd (core64 [0xaa, 0xbb, 0xcc] 0 3 0 8 8)) 0 8
      = some [0xaa, 0xbb, 0xcc, 0x80, 0, 0, 0, 0] ∧
    report (exec .padAdd (core64 [0xaa, 0xbb, 0xcc] 0 3 0 8 8)) = some (0, 0, 0, 8) ∧
    dmemAfter (exec .padAdd (core64 [] 64 0 0 1 1)) 0 1 = some [0x80] := by decide +kernel

/-- 95 section 7, rows 23 to 26: the block size first, then the range of the source, the capacity, the
range of the destination. -/
theorem test_pad_add_faults :
    report (exec .padAdd (core64 [] 100 0 0 0 0)) = some (0, 4, 0x00000020, 0) ∧
    report (exec .padAdd (core64 [] 60 8 0 64 8)) = some (0, 3, 0x00000020, 0) ∧
    report (exec .padAdd (core64 [] 0 8 16 15 8)) = some (0, 3, 0x00000020, 0) ∧
    report (exec .padAdd (core64 [] 0 8 56 16 8)) = some (0, 3, 0x00000020, 0) := by decide

/-- 95 section 7, rows 27, 28 and 31: no wrap, and an empty source past the end. -/
theorem test_pad_add_no_wrap :
    report (exec .padAdd (core64 [] 0 3 8 4294967295 4294967295)) = some (0, 3, 0x00000020, 0) ∧
    report (exec .padAdd (core64 [] 0 4294967295 0 0 4294967295)) = some (0, 3, 0x00000020, 0) ∧
    report (exec .padAdd (core64 [] 65 0 0 1 1)) = some (0, 3, 0x00000020, 0) := by decide

/-- The example of R187; data whose last marker is followed by other bytes; 95 section 7, rows 32 to
34. -/
theorem test_pad_rem :
    report (exec .padRem (core64 [0xaa, 0xbb, 0xcc, 0x80, 0, 0, 0, 0] 0 8 0 0 0)) = some (0, 0, 0, 3) ∧
    report (exec .padRem (core64 [0x80, 0x22, 0x80, 0x44] 0 4 0 0 0)) = some (0, 0, 0, 2) ∧
    report (exec .padRem (core64 (List.replicate 64 0) 0 64 0 0 0)) = some (2, 0, 0, 0) ∧
    report (exec .padRem (core64 [] 0 0 0 0 0)) = some (2, 0, 0, 0) ∧
    report (exec .padRem (core64 [] 0 65 0 0 0)) = some (0, 3, 0x00000021, 0) := by decide +kernel

/-! ### The host port and the step -/

/-- 95 section 7, rows 38 to 41: an illegal word, and the first fault is kept. -/
theorem test_illegal_word :
    report (executeWord 0x00000000 { State.reset with err := 1 }) = some (1, 1, 0x00000000, 0) ∧
    report (executeWord 0x00000401 State.reset) = some (0, 1, 0x00000401, 0) ∧
    report (executeWord 0x00000001 { State.reset with fault := 1 }) = some (0, 1, 0, 0) ∧
    report (executeWord 0xFFFFFFFF { State.reset with fault := 2, finfo := 3 })
      = some (0, 2, 3, 0) := by decide

/-- `step` fetches and runs the word `withFetchWord` places. -/
theorem test_withFetchWord :
    report (step (State.reset.withFetchWord 32 0x80020010)) = some (0, 0, 0, 0xC3) ∧
    (nextOf (step (State.reset.withFetchWord 32 0x00000101))).map State.script = some [] := by
  decide

/-- A write of a read-only register is ignored; a read of `CMD` gives 0; the index advances. -/
theorem test_host_registers :
    (nextOf (step (scripted State.reset [.wr .fault 7]))).map State.fault = some 0 ∧
    (nextOf (step (scripted State.reset [.wr .x3 7]))).map State.x3 = some 7 ∧
    (nextOf (step (scripted { State.reset with kv := true, fault := 3 } [.rd .status]))).map
      State.replies = some [.word 5] ∧
    (nextOf (step (scripted State.reset [.rd .cmd]))).map State.index = some 1 := by decide

/-- Bytes written by the host are read back; an access past the end is no host action (D34). -/
theorem test_host_memory :
    (nextOf (step (scripted (core64 [1, 2, 3] 0 0 0 0 0) [.mr 1 2]))).map State.replies
      = some [.bytes [2, 3]] ∧
    (nextOf (step (scripted (core64 [1, 2, 3] 0 0 0 0 0) [.mw 1 [9]]))).map State.dmem
      = some [(0, 1), (1, 9), (2, 3)] ∧
    (nextOf (step (scripted (core64 [] 0 0 0 0 0) [.mw 63 [1, 2]]))).isNone = true ∧
    (HostRequest.mw 63 [1]).inInterface 64 = true ∧
    (HostRequest.mw 63 [1, 2]).inInterface 64 = false := by decide

/-- `RESET` leaves the faulted state and clears the contexts. -/
theorem test_reset_action :
    (nextOf (step (scripted { State.reset with fault := 2, kv := true, x5 := 9 } [.reset]))).map
      (fun t => (t.fault, t.kv, t.x5)) = some (0, false, 0) := by decide

/-! ### Witnesses: for each statement with hypotheses, a state and operands that meet them -/

theorem witness_EncodeOfDecode : decode 0x94940010 = .ok (.gfmul 0x94 0x94) := by decide

theorem witness_RowSelectsCommand :
    0x94940010#32 &&& rowMask (.gfmul 1 2) = rowMatch (.gfmul 1 2) ∧
    0x94940010#32 &&& rowMask (.gfmul 3 4) = rowMatch (.gfmul 3 4) := by decide

theorem witness_IllegalWords :
    (scripted State.reset [.wr .cmd 0x00000401]).Live ∧
    (scripted State.reset [.wr .cmd 0x00000401]).script = [.wr .cmd 0x00000401] ∧
    decode 0x00000401 = .error .noWrapper := by decide

theorem witness_StepRunsDecodedCommand :
    (scripted State.reset [.wr .cmd 0x00000020, .reset]).script = .wr .cmd 0x00000020 :: [.reset] ∧
    decode 0x00000020 = .ok .padAdd := by decide

theorem witness_HostRegisterAccess :
    HostReg.ofNumber? 12 = some .finfo ∧
    (scripted State.reset [.wr .x0 1]).script = [.wr .x0 1] ∧
    (scripted State.reset [.wr .x4 1]).script = [.wr .x4 1] ∧
    (scripted State.reset [.wr .finfo 1]).script = [.wr .finfo 1] ∧
    (scripted State.reset [.rd .status]).script = [.rd .status] ∧
    (scripted { State.reset with fault := 3 } [.wr .cmd 1]).fault ≠ 0 ∧
    (scripted { State.reset with fault := 3 } [.wr .cmd 1]).script = [.wr .cmd 1] := by decide

/-- Boundary: the last byte inside `DMEM` and the first outside it. -/
theorem witness_HostMemoryAccess :
    (scripted State.reset [.mw 255 [7]]).script = [.mw 255 [7]] ∧ 255 + 1 ≤ State.reset.cfg.dmemSize ∧
    (scripted State.reset [.mr 0 256]).script = [.mr 0 256] ∧ 0 + 256 ≤ State.reset.cfg.dmemSize ∧
    (scripted State.reset [.mw 256 [7]]).script = [.mw 256 [7]] ∧
    State.reset.cfg.dmemSize < 256 + 1 ∧
    (scripted State.reset [.mr 1 256]).script = [.mr 1 256] ∧
    State.reset.cfg.dmemSize < 1 + 256 := by decide

theorem witness_ResetActionClears :
    (scripted { State.reset with fault := 3, kv := true } [.reset, .rd .err]).script
      = .reset :: [.rd .err] := by decide

theorem witness_IndexAdvancesByOne :
    step State.reset = .next State.reset ∧ State.reset.script = [] ∧
    (∃ t, step (scripted State.reset [.wr .cmd 0xFFFFFFFF]) = .next t) ∧
    (scripted State.reset [.wr .cmd 0xFFFFFFFF]).script ≠ [] :=
  ⟨rfl, rfl, ⟨_, rfl⟩, by decide⟩

theorem witness_RunInsideInterfaceNeverStops :
    (scripted State.reset [.mw 255 [7], .mr 0 256, .wr .cmd 0xFFFFFFFF, .reset]).ScriptLegal := by
  decide

theorem witness_CommandOutcomesPrecise : State.reset.Live := by decide

/-- A faulted core of 64 bytes with the given host requests to come. -/
def faulted64 (script : List HostRequest) : State :=
  scripted { core64 [] 0 0 0 0 0 with fault := 4 } script

/-- Every clause, the memory accesses at the last byte of `DMEM`. -/
theorem witness_FaultedStateIgnoresCommands :
    (∀ script, (faulted64 script).fault ≠ 0) ∧
    (faulted64 [.wr .cmd 1]).script = [.wr .cmd 1] ∧
    (faulted64 [.wr .x0 1]).script = [.wr .x0 1] ∧
    (faulted64 [.wr .x4 1]).script = [.wr .x4 1] ∧
    (faulted64 [.rd .fault]).script = [.rd .fault] ∧
    (faulted64 [.mw 63 [1]]).script = [.mw 63 [1]] ∧
    63 + [(1 : Byte)].length ≤ (faulted64 [.mw 63 [1]]).cfg.dmemSize ∧
    (faulted64 [.mr 0 64]).script = [.mr 0 64] ∧ 0 + 64 ≤ (faulted64 [.mr 0 64]).cfg.dmemSize ∧
    (faulted64 [.reset]).script = [.reset] ∧
    (∃ t, step (faulted64 [.wr .cmd 1]) = .next t) ∧
    (∀ rest, (faulted64 [.wr .cmd 1]).script ≠ .reset :: rest) :=
  ⟨fun _ => (show (4 : Word) ≠ 0 by decide), rfl, rfl, rfl, rfl, rfl, by decide, rfl, by decide, rfl, ⟨_, rfl⟩,
    by simp [faulted64, scripted]⟩

theorem witness_StepKeepsInvariant :
    (scripted (core64 [1, 2] 0 2 62 2 1) [.mw 63 [5]]).Inv ∧
    ∃ t, step (scripted (core64 [1, 2] 0 2 62 2 1) [.mw 63 [5]]) = .next t :=
  ⟨⟨test_default_wellFormed.2, by decide, by decide⟩, ⟨_, rfl⟩⟩

theorem witness_TablesNeverChange :
    ∃ t, step (scripted State.reset [.wr .cmd 0x00000011]) = .next t := ⟨_, rfl⟩

theorem witness_OperandRegistersBelongToHost :
    (∃ t, step (scripted State.reset [.wr .x0 5]) = .next t ∧ t.x0 ≠ State.reset.x0) ∧
    (∃ t, step (scripted { State.reset with x4 := 5 } [.reset]) = .next t) ∧
    ∃ t, step (scripted State.reset [.wr .cmd 1]) = .next t :=
  ⟨⟨_, rfl, by decide⟩, ⟨_, rfl⟩, ⟨_, rfl⟩⟩

/-- A key at the last legal address; and a `RESET` of a loaded context. -/
theorem witness_KuzContextWrittenBySetkeyOnly :
    (∃ t, step (scripted (core64 [] 32 32 0 0 0) [.wr .cmd 0x00000002]) = .next t ∧ t.kv ≠ false) ∧
    ∃ t, step (scripted (kuzCore [] 0 0 0 0) [.reset]) = .next t ∧ t.kv ≠ true :=
  ⟨⟨_, rfl, by decide⟩, ⟨_, rfl, by decide⟩⟩

theorem witness_MagContextWrittenBySetkeyOnly :
    (∃ t, step (scripted (core64 [] 32 32 0 0 0) [.wr .cmd 0x00000102]) = .next t ∧ t.mv ≠ false) ∧
    (∃ t, step (scripted (core64 [] 0 32 0 0 0) [.wr .cmd 0x00000502]) = .next t ∧ t.mv ≠ false) ∧
    ∃ t, step (scripted (magCore magBank [] 0 0 0 0) [.reset]) = .next t ∧ t.mv ≠ true :=
  ⟨⟨_, rfl, by decide⟩, ⟨_, rfl, by decide⟩, ⟨_, rfl, by decide⟩⟩

theorem witness_ResultWrittenOnOkOnly :
    (∃ t, step (scripted State.reset [.wr .cmd 0x00000001]) = .next t ∧ t.x5 ≠ 0) ∧
    ∃ t, step (scripted { State.reset with x5 := 9 } [.reset]) = .next t ∧ t.x5 ≠ 9 :=
  ⟨⟨_, rfl, by decide⟩, ⟨_, rfl, by decide⟩⟩

/-- The bytes just below and just above the window of a `MAG.ENC`. -/
theorem witness_CommandDmemFrame :
    (∃ t, exec .magEnc (magCore magBank [] 0 8 8 9) = .next t) ∧
    (7 < (magCore magBank [] 0 8 8 9).dstAddr) ∧
    (magCore magBank [] 0 8 8 9).dstAddr + (magCore magBank [] 0 8 8 9).storedLen .magEnc ≤ 16 :=
  ⟨⟨_, rfl⟩, by decide, by decide⟩

theorem witness_InvalidBanksUnobservable :
    SameButInvalidBanks (scripted State.reset [.wr .cmd 0x00000003])
      { scripted State.reset [.wr .cmd 0x00000003] with kuzRk := v1Bank, magK := magBank } ∧
    (∃ t, step (scripted State.reset [.wr .cmd 0x00000003]) = .next t) ∧
    step (scripted State.reset [.mr 256 1]) = .refused .hostAddressOutsideDmem :=
  ⟨⟨rfl, by decide, by decide⟩, ⟨_, rfl⟩, rfl⟩

theorem witness_ContextsIndependent :
    (∃ t, exec .kuzEnc (kuzCore [] 0 16 16 16) = .next t) ∧ Instr.kuzEnc.isKuz = true ∧
    (∃ t, exec .magDecStd (magCore magBank [] 0 8 56 8) = .next t) ∧ Instr.magDecStd.isMag = true :=
  ⟨⟨_, rfl⟩, rfl, ⟨_, rfl⟩, rfl⟩

/-- The same block at two addresses, with different destinations, `ERR`, sizes of `DMEM` and tables of
the other cipher. -/
theorem witness_OutputDependsOnKeyAndBlockOnly :
    let s := kuzCore (List.replicate 48 3) 0 16 32 16
    let u : State := { kuzCore (List.replicate 48 3) 16 16 48 16 with
      err := 1, cfg := { defaultConfig with msb := Vector.replicate 8 (Vector.replicate 16 0) } }
    let m := magCore magBank (List.replicate 48 3) 0 8 56 8
    let n : State := { magCore magBank (List.replicate 48 3) 40 8 0 256 with
      cfg := { defaultConfig with lvec := Vector.replicate 16 0 } }
    s.BlockReady s.kv 16 ∧ u.BlockReady u.kv 16 ∧
    s.cfg.piRows = u.cfg.piRows ∧ s.cfg.lvec = u.cfg.lvec ∧ s.kuzRk = u.kuzRk ∧
    s.readBlock 16 = u.readBlock 16 ∧
    (∃ t, exec .kuzEnc s = .next t) ∧ (∃ v, exec .kuzEnc u = .next v) ∧
    m.BlockReady m.mv 8 ∧ n.BlockReady n.mv 8 ∧ m.cfg.msb = n.cfg.msb ∧ m.magK = n.magK ∧
    m.readBlock 8 = n.readBlock 8 ∧
    (∃ t, exec .magDecStd m = .next t) ∧ ∃ v, exec .magDecStd n = .next v :=
  ⟨by decide, by decide, rfl, rfl, rfl, by decide +kernel, ⟨_, rfl⟩, ⟨_, rfl⟩,
    by decide, by decide, rfl, rfl, by decide +kernel, ⟨_, rfl⟩, ⟨_, rfl⟩⟩

theorem witness_BlockSizeCommands : State.reset.Live := by decide

theorem witness_WrapperBlockSizeCommand : State.reset.Live := by decide

theorem witness_GfmulCommand :
    State.reset.Live ∧ ({ State.reset with fault := 1 } : State).fault ≠ 0 ∧
    fieldOp 0x00000110 = 0x10#8 ∧ (0x00000110#32).extractLsb' 8 8 ≠ 0 := by decide

theorem witness_SubstitutionCommands :
    State.reset.Live ∧ fieldOp 0x01000011 = 0x11#8 ∧ (0x01000011#32).extractLsb' 24 8 ≠ 0 ∧
    fieldOp 0x00008012 = 0x12#8 ∧ (0x00008012#32).extractLsb' 8 8 ≠ 0 ∧
    defaultConfig.piOk = true :=
  ⟨by decide, by decide, by decide, by decide, by decide, test_default_piOk⟩

/-- A key one byte too long, a key that ends one byte past `DMEM`, a key that ends at its end. -/
theorem witness_KuzSetkeyCommand :
    (core64 [] 0 33 0 0 0).Live ∧ (core64 [] 0 33 0 0 0).srcLen ≠ 32 ∧
    (core64 [] 33 32 0 0 0).Live ∧ (core64 [] 33 32 0 0 0).srcLen = 32 ∧
    (core64 [] 33 32 0 0 0).cfg.dmemSize < (core64 [] 33 32 0 0 0).srcAddr + 32 ∧
    (core64 [] 32 32 0 0 0).Live ∧ (core64 [] 32 32 0 0 0).srcLen = 32 ∧
    (core64 [] 32 32 0 0 0).srcAddr + 32 ≤ (core64 [] 32 32 0 0 0).cfg.dmemSize := by decide

theorem witness_MagSetkeyCommands :
    (core64 [] 0 31 0 0 0).Live ∧ (core64 [] 0 31 0 0 0).srcLen ≠ 32 ∧
    (core64 [] 33 32 0 0 0).Live ∧ (core64 [] 33 32 0 0 0).srcLen = 32 ∧
    (core64 [] 33 32 0 0 0).cfg.dmemSize < (core64 [] 33 32 0 0 0).srcAddr + 32 ∧
    (core64 [] 32 32 0 0 0).Live ∧ (core64 [] 32 32 0 0 0).srcLen = 32 ∧
    (core64 [] 32 32 0 0 0).srcAddr + 32 ≤ (core64 [] 32 32 0 0 0).cfg.dmemSize := by decide

/-- No key; a destination one byte short; buffers that end exactly at the end of `DMEM`. -/
theorem witness_KuzBlockCommands :
    (core64 [] 0 16 0 16 0).Live ∧ (core64 [] 0 16 0 16 0).kv = false ∧
    (kuzCore [] 0 16 0 15).Live ∧ (kuzCore [] 0 16 0 15).kv = true ∧
    ¬ (kuzCore [] 0 16 0 15).BlockBuffersFit 16 ∧
    (kuzCore [] 48 16 48 16).Live ∧ (kuzCore [] 48 16 48 16).kv = true ∧
    (kuzCore [] 48 16 48 16).BlockBuffersFit 16 := by decide

theorem witness_MagBlockCommands :
    (core64 [] 0 8 0 8 0).Live ∧ (core64 [] 0 8 0 8 0).mv = false ∧
    (magCore magBank [] 57 8 0 8).Live ∧ (magCore magBank [] 57 8 0 8).mv = true ∧
    ¬ (magCore magBank [] 57 8 0 8).BlockBuffersFit 8 ∧
    (magCore magBank [] 56 8 56 8).Live ∧ (magCore magBank [] 56 8 56 8).mv = true ∧
    (magCore magBank [] 56 8 56 8).BlockBuffersFit 8 := by decide

/-- A block size of 0; each of the three ways not to fit, by one byte; a fit to the last byte. -/
theorem witness_PadAddCommand :
    (core64 [] 0 8 0 16 0).Live ∧ (core64 [] 0 8 0 16 0).padBs = 0 ∧
    (core64 [] 57 8 0 16 8).padBs ≠ 0 ∧
    (core64 [] 57 8 0 16 8).cfg.dmemSize < (core64 [] 57 8 0 16 8).srcAddr
      + (core64 [] 57 8 0 16 8).srcLen ∧
    (core64 [] 0 8 0 15 8).padBs ≠ 0 ∧
    (core64 [] 0 8 0 15 8).dstLen < padLen (core64 [] 0 8 0 15 8).srcLen (core64 [] 0 8 0 15 8).padBs ∧
    (core64 [] 0 8 49 16 8).padBs ≠ 0 ∧
    (core64 [] 0 8 49 16 8).cfg.dmemSize < (core64 [] 0 8 49 16 8).dstAddr
      + (core64 [] 0 8 49 16 8).dstLen ∧
    (core64 [] 56 8 48 16 8).Live ∧ (core64 [] 56 8 48 16 8).padBs ≠ 0 ∧
    (core64 [] 56 8 48 16 8).srcAddr + (core64 [] 56 8 48 16 8).srcLen
      ≤ (core64 [] 56 8 48 16 8).cfg.dmemSize ∧
    padLen (core64 [] 56 8 48 16 8).srcLen (core64 [] 56 8 48 16 8).padBs
      ≤ (core64 [] 56 8 48 16 8).dstLen ∧
    (core64 [] 56 8 48 16 8).dstAddr + (core64 [] 56 8 48 16 8).dstLen
      ≤ (core64 [] 56 8 48 16 8).cfg.dmemSize := by decide

/-- A source one byte past the end; a source with no marker; a marker at the last index. -/
theorem witness_PadRemCommand :
    (core64 [] 0 65 0 0 0).Live ∧
    (core64 [] 0 65 0 0 0).cfg.dmemSize < (core64 [] 0 65 0 0 0).srcAddr
      + (core64 [] 0 65 0 0 0).srcLen ∧
    (core64 [1, 2, 3] 0 3 0 0 0).srcAddr + (core64 [1, 2, 3] 0 3 0 0 0).srcLen
      ≤ (core64 [1, 2, 3] 0 3 0 0 0).cfg.dmemSize ∧
    (∀ j, j < (core64 [1, 2, 3] 0 3 0 0 0).srcLen → (core64 [1, 2, 3] 0 3 0 0 0).byteAt
      ((core64 [1, 2, 3] 0 3 0 0 0).srcAddr + j) ≠ 0x80#8) ∧
    (core64 [0x80, 2, 0x80] 0 3 0 0 0).srcAddr + (core64 [0x80, 2, 0x80] 0 3 0 0 0).srcLen
      ≤ (core64 [0x80, 2, 0x80] 0 3 0 0 0).cfg.dmemSize ∧
    (core64 [0x80, 2, 0x80] 0 3 0 0 0).LastMarkerAt 2 := by decide +kernel

theorem witness_InPlaceRoundTrip :
    (kuzCore [] 48 16 48 16).dstAddr = (kuzCore [] 48 16 48 16).srcAddr ∧
    (kuzCore [] 48 16 48 16).BlockReady (kuzCore [] 48 16 48 16).kv 16 ∧
    (kuzCore [] 48 16 48 16).cfg.piOk = true ∧
    (∃ t, exec .kuzEnc (kuzCore [] 48 16 48 16) = .next t) ∧
    (magCore magBank [] 56 8 56 8).dstAddr = (magCore magBank [] 56 8 56 8).srcAddr ∧
    (magCore magBank [] 56 8 56 8).BlockReady (magCore magBank [] 56 8 56 8).mv 8 ∧
    (∃ t, exec .magEnc (magCore magBank [] 56 8 56 8) = .next t) ∧
    ∃ t, exec .magEncStd (magCore magBank [] 56 8 56 8) = .next t :=
  ⟨rfl, by decide, test_default_piOk, ⟨_, rfl⟩, rfl, by decide, ⟨_, rfl⟩, ⟨_, rfl⟩⟩

theorem witness_MultiplicationTableLaws : (0x02 : Byte) ≠ 0 ∧ 0 < 1 ∧ 254 < 255 := by decide

theorem witness_SubstitutionsInverse : defaultConfig.piOk = true := test_default_piOk

theorem witness_SubstitutionLayers : 15 < 16 ∧ defaultConfig.piOk = true := ⟨by decide, test_default_piOk⟩

theorem witness_KuzRoundTrip : defaultConfig.piOk = true := test_default_piOk

theorem witness_PaddingGrows : 1 ≤ 1 ∧ 8 ∣ 16 ∧ [1, 2, 3, 4, 5, 6, 7, (8 : Byte)].length < 16 := by decide

theorem witness_RemovePaddingRule :
    [0x80, 0x05, (0x80 : Byte)][2]? = some 0x80#8 ∧
    ∀ k, 2 < k → [0x80, 0x05, (0x80 : Byte)][k]? ≠ some 0x80#8 := by
  refine ⟨by decide, fun k hk => ?_⟩
  rw [List.getElem?_eq_none (by simpa using Nat.succ_le_of_lt hk)]
  simp

/-- The statements whose only hypotheses bound an index: both ends of each range. -/
theorem witness_StatusView : 3 ≤ 3 ∧ 3 ≤ 31 := by decide

theorem witness_MemoryPrimitives :
    0 < (State.reset.memRead 0 2).length ∧ 1 < (State.reset.memRead 0 2).length ∧ 31 < 32 ∧
    15 < 16 := by decide

theorem witness_PseudoInstructions :
    (scripted State.reset (pseudoSrc 32 16 ++ [.reset])).script = pseudoSrc 32 16 ++ [.reset] ∧
    (scripted State.reset (pseudoDst 48 16)).script = pseudoDst 48 16 ++ [] := by decide

theorem witness_LinearSteps : 0 < 15 ∧ 14 < 15 := by decide

theorem witness_KeyScheduleRecurrence : 31 < 32 ∧ 0 < 4 ∧ 3 < 4 := by decide

theorem witness_KuzRounds : 0 < 9 ∧ 8 < 9 := by decide

theorem witness_MagKeyWordsRule : 0 < 8 ∧ 7 < 8 := by decide

theorem witness_NibbleSubstitution : 0 < 8 ∧ 7 < 8 := by decide

theorem witness_MagRounds : 0 < 32 ∧ 31 < 32 := by decide

theorem witness_StandardByteOrder : 7 < 8 ∧ 3 < 4 ∧ 0 < 8 := by decide

theorem witness_PaddingRoundTrip : 1 ≤ 1 := by decide

end Sys2Proof.Tests
end

section
/-! The host-visible register space and the `STATUS` view (spec/10_state.md R24, R34): what a number
names, what one register access at the port does, and the bits of `STATUS`. -/

namespace Sys2Proof.Machine

/-! ### The numbers of the register space (R34) -/

/-- `ofNumber?` is the inverse of `number`, so each number names at most one register. -/
theorem HostReg.ofNumber?_eq_some_iff (n : Nat) (r : HostReg) :
    HostReg.ofNumber? n = some r ↔ r.number = n := by
  constructor
  · intro h
    unfold HostReg.ofNumber? at h
    split at h <;> cases h <;> rfl
  · rintro rfl
    cases r <;> rfl

theorem HostReg.number_le_twelve (r : HostReg) : r.number ≤ 12 := by
  cases r <;> decide

theorem HostReg.ofNumber?_eq_none_of_thirteen_le {n : Nat} (hn : 13 ≤ n) :
    HostReg.ofNumber? n = none := by
  refine Option.eq_none_iff_forall_ne_some.mpr fun r hr => ?_
  have hnum := (HostReg.ofNumber?_eq_some_iff n r).mp hr
  have hle := r.number_le_twelve
  omega

/-! ### One register access -/

/-- The five registers whose writes R34 ignores. -/
theorem State.writeReg_readOnly (s : State) (v : Word) {r : HostReg}
    (hr : r ∈ [HostReg.x5, .status, .err, .fault, .finfo]) : s.writeReg v r = .next s := by
  simp only [List.mem_cons, List.not_mem_nil, or_false] at hr
  obtain rfl | rfl | rfl | rfl | rfl := hr <;> rfl

/-- No register's value depends on the host's script or index (log entry 6). -/
@[simp] theorem State.readReg_advance (s : State) (rest : List HostRequest) (r : HostReg) :
    (s.advance rest).readReg r = s.readReg r := by
  cases r <;> rfl

/-- In the faulted state a word written to `CMD` is ignored, a legal one or not (R231). -/
theorem executeWord_faulted {s : State} (h : s.fault ≠ 0) (w : Word) :
    executeWord w s = .next s :=
  if_pos ((State.faulted_iff s).mpr h)

section
variable {s : State} {r : HostReg} {rest : List HostRequest}

/-- A register write is in the interface whatever the size of `DMEM` (R80). -/
theorem step_wr {v : Word} (h : s.script = .wr r v :: rest) :
    step s = (s.advance rest).writeReg v r :=
  step_cons h rfl

/-- A register read changes only what the host holds (R80). -/
theorem step_rd (h : s.script = .rd r :: rest) :
    step s = .next ((s.advance rest).reply (.word (s.readReg r))) := by
  rw [← s.readReg_advance rest r]
  exact step_cons h rfl

end

/-- The table of R34 pairs each register with the value `readReg` gives. -/
theorem State.eq_readReg_of_mem_table (s : State) {r : HostReg} {v : Word}
    (h : (r, v) ∈ [(HostReg.x0, s.x0), (HostReg.x1, s.x1), (HostReg.x2, s.x2),
      (HostReg.x3, s.x3), (HostReg.x4, s.x4), (HostReg.x5, s.x5), (HostReg.cmd, 0),
      (HostReg.status, s.status), (HostReg.err, s.err), (HostReg.fault, s.fault),
      (HostReg.finfo, s.finfo)]) : v = s.readReg r := by
  simp only [List.mem_cons, List.not_mem_nil, or_false, Prod.mk.injEq] at h
  cases r <;> simpa [State.readReg] using h

/-! ### The bits of `STATUS` (R24) -/

/-- The four fields of `STATUS`, bit by bit. -/
theorem State.getLsbD_status (s : State) (i : Nat) :
    s.status.getLsbD i =
      if i = 0 then s.kv else if i = 1 then s.mv else if i = 2 then s.faulted else false := by
  change (0#29 ++ BitVec.ofBool s.faulted ++ BitVec.ofBool s.mv
    ++ BitVec.ofBool s.kv : BitVec (29 + 1 + 1 + 1)).getLsbD i = _
  simp only [BitVec.getLsbD_append, BitVec.getLsbD_ofBool, BitVec.getLsbD_zero]
  rcases i with _ | _ | _ | i <;> simp

/-- The `FLT` bit in the form of R24. -/
theorem State.faulted_eq_decide (s : State) : s.faulted = decide (s.fault ≠ 0) :=
  Bool.eq_iff_iff.mpr (s.faulted_iff.trans decide_eq_true_iff.symm)

/-! ### The statements -/

/-- Settles O7: the numbers are those of `HostReg.ofNumber?_eq_some_iff`, and each access is one
`writeReg` or `readReg` after `advance`. -/
theorem hostRegisterAccess : Obligations.HostRegisterAccess := by
  refine ⟨by decide, fun r => (HostReg.ofNumber?_eq_some_iff _ r).mpr rfl,
    fun n r => (HostReg.ofNumber?_eq_some_iff n r).mp,
    ⟨rfl, rfl, fun n => HostReg.ofNumber?_eq_none_of_thirteen_le⟩, fun s rest =>
    ⟨fun v => step_wr, fun v => step_wr, fun v => step_wr, fun v => step_wr, fun v => step_wr,
      ?readOnly, ?read, ?cmdFaulted⟩⟩
  case readOnly =>
    intro v r hr h
    rw [step_wr h, State.writeReg_readOnly _ _ hr]
  case read =>
    intro r v hrv h
    rw [s.eq_readReg_of_mem_table hrv, step_rd h]
    rfl
  case cmdFaulted =>
    intro w hf h
    rw [step_wr h]
    exact executeWord_faulted (s := s.advance rest) hf w

/-- Settles O11: each clause is one bit of `State.getLsbD_status`. -/
theorem statusView : Obligations.StatusView := by
  intro s
  have hread : s.readReg .status = s.status := rfl
  rw [hread]
  refine ⟨s.getLsbD_status 0, s.getLsbD_status 1, ?flt, ?high,
    fun v => s.writeReg_readOnly v (by decide)⟩
  case flt => exact (s.getLsbD_status 2).trans s.faulted_eq_decide
  case high =>
    intro i hi
    rw [s.getLsbD_status i, if_neg (by omega), if_neg (by omega), if_neg (by omega)]

end Sys2Proof.Machine
end

section
/-! The opcode map (spec/30_encoding.md R70 to R77): the decoder and the encoder are inverse to each
other, and a row of the map matches exactly the words of its commands. -/

namespace Sys2Proof

/-! ### The fields of a word -/

/-- A mask acts field by field. -/
theorem wordOfFields_and (op op' : Byte) (ciph ciph' : BitVec 2) (std std' : BitVec 1)
    (z z' : BitVec 5) (a a' b b' : Byte) :
    wordOfFields op ciph std z a b &&& wordOfFields op' ciph' std' z' a' b'
      = wordOfFields (op &&& op') (ciph &&& ciph') (std &&& std') (z &&& z') (a &&& a')
        (b &&& b') := by
  have h : (b ++ a ++ z ++ std ++ ciph ++ op) &&& (b' ++ a' ++ z' ++ std' ++ ciph' ++ op')
      = (b &&& b') ++ (a &&& a') ++ (z &&& z') ++ (std &&& std') ++ (ciph &&& ciph')
        ++ (op &&& op') := by
    simp only [BitVec.and_append]
  exact h

/-- A mask of operand bits keeps the bits of `A` and `B` alone. -/
theorem and_operandMask (w : Word) (a b : Byte) :
    w &&& wordOfFields 0 0 0 0 a b = wordOfFields 0 0 0 0 (fieldA w &&& a) (fieldB w &&& b) := by
  conv_lhs => rw [← wordOfFields_fields w, wordOfFields_and]
  simp

/-- Two words that agree under a mask and outside it are equal. -/
theorem eq_of_and_eq_of_and_not_eq {n : Nat} {x y m : BitVec n} (hin : x &&& m = y &&& m)
    (hout : x &&& ~~~m = y &&& ~~~m) : x = y := by
  have parts (v : BitVec n) : v = (v &&& m) ||| (v &&& ~~~m) := by
    rw [← BitVec.and_or_distrib_left]
    simp
  rw [parts x, hin, hout, ← parts y]

/-- Bits 15:8 are the fields `CIPH`, `STD` and `Z` (R72, R73). -/
theorem selectorZero_iff (w : Word) :
    selectorZero w = true ↔ fieldCiph w = 0#2 ∧ fieldStd w = 0#1 ∧ fieldZ w = 0#5 := by
  have h := selectorZero_wordOfFields (fieldOp w) (fieldCiph w) (fieldStd w) (fieldZ w) (fieldA w)
    (fieldB w)
  rw [wordOfFields_fields] at h
  simp [h, and_assoc]

/-! ### Decode after encode -/

/-- The decoder reads each command back from the encoder's word. A command without operands is one
closed word; the fields of the others are those of `wordOfFields`. -/
theorem decode_encode (i : Instr) : decode (encode i) = .ok i := by
  cases i
  case gfmul | sub | subinv => simp [encode, decode, decodeFormatT, selectorZero_wordOfFields]
  all_goals rfl

theorem encode_injective {i j : Instr} (h : encode i = encode j) : i = j := by
  have hd := decode_encode i
  rw [h, decode_encode j] at hd
  exact (Except.ok.inj hd).symm

/-! ### Encode after decode, format by format -/

section
variable {op : Byte} {w : Word} {i : Instr}

theorem encode_of_decodeKuz (h : decodeKuz op = .ok i) : encode i = wordOfFields op 0 0 0 0 0 := by
  unfold decodeKuz at h
  split_ifs at h with hop hop hop hop <;> cases h <;> subst hop <;> rfl

theorem encode_of_decodeMag (h : decodeMag op = .ok i) : encode i = wordOfFields op 1 0 0 0 0 := by
  unfold decodeMag at h
  split_ifs at h with hop hop hop hop <;> cases h <;> subst hop <;> rfl

theorem encode_of_decodeMagStd (h : decodeMagStd op = .ok i) :
    encode i = wordOfFields op 1 1 0 0 0 := by
  unfold decodeMagStd at h
  split_ifs at h with hop hop hop hop <;> cases h <;> subst hop <;> rfl

/-- `STD` is one bit, so a word that is not of the internal convention is of the standard one. -/
theorem fieldStd_eq_one_of_ne_zero (h : fieldStd w ≠ 0#1) : fieldStd w = 1#1 :=
  (BitVec.eq_zero_or_eq_one _).resolve_left h

theorem encode_of_decodeFormatK (h : decodeFormatK w = .ok i) : encode i = w := by
  rw [← wordOfFields_fields w]
  unfold decodeFormatK at h
  split_ifs at h with hz hab hkuz hstd hmag hstd
  all_goals
    obtain ⟨ha, hb⟩ := not_or.mp hab
    rw [not_not.mp hz, not_not.mp ha, not_not.mp hb]
  case pos => rw [hkuz, hstd]; exact encode_of_decodeKuz h
  case pos => rw [hmag, hstd]; exact encode_of_decodeMag h
  case neg => rw [hmag, fieldStd_eq_one_of_ne_zero hstd]; exact encode_of_decodeMagStd h

theorem encode_of_decodeFormatT (h : decodeFormatT w = .ok i) : encode i = w := by
  rw [← wordOfFields_fields w]
  unfold decodeFormatT at h
  split_ifs at h with hsel hgf hb hsub hinv
  all_goals
    obtain ⟨hciph, hstd, hz⟩ := (selectorZero_iff w).mp hsel
    rw [hciph, hstd, hz]
    cases h
  case pos => rw [hgf]; rfl
  case pos => rw [hsub, not_not.mp hb]; rfl
  case pos => rw [hinv, not_not.mp hb]; rfl

theorem encode_of_decodeFormatP (h : decodeFormatP w = .ok i) : encode i = w := by
  rw [← wordOfFields_fields w]
  unfold decodeFormatP at h
  split_ifs at h with hsel hab hadd hrem
  all_goals
    obtain ⟨hciph, hstd, hz⟩ := (selectorZero_iff w).mp hsel
    obtain ⟨ha, hb⟩ := not_or.mp hab
    rw [hciph, hstd, hz, not_not.mp ha, not_not.mp hb]
    cases h
  case pos => rw [hadd]; rfl
  case pos => rw [hrem]; rfl

theorem encode_of_decode (h : decode w = .ok i) : encode i = w := by
  unfold decode at h
  split_ifs at h
  · exact encode_of_decodeFormatK h
  · exact encode_of_decodeFormatT h
  · exact encode_of_decodeFormatP h

/-- A word decodes to a command exactly when it is the command's one word (R74). -/
theorem decode_eq_ok_iff : decode w = .ok i ↔ w = encode i :=
  ⟨fun h => (encode_of_decode h).symm, fun h => h ▸ decode_encode i⟩

end

/-! ### Operand bytes and the rows of the map -/

/-- The operand bytes of the encoder's word are the command's own (R77). -/
theorem readOperands_encode (i : Instr) : i.readOperands (encode i) = i := by
  cases i
  case gfmul | sub | subinv => simp [encode, Instr.readOperands]
  all_goals rfl

section
variable (w : Word) (i : Instr)

/-! A row does not depend on the operand bytes. -/

@[simp] theorem rowMask_readOperands : rowMask (i.readOperands w) = rowMask i := by
  cases i <;> rfl

@[simp] theorem rowMatch_readOperands : rowMatch (i.readOperands w) = rowMatch i := by
  cases i <;> rfl

@[simp] theorem mnemonic_readOperands : (i.readOperands w).mnemonic = i.mnemonic := by
  cases i <;> rfl

/-- The encoder's word lies in the command's row: the family `RowFits` for every command. -/
theorem encode_and_rowMask : encode i &&& rowMask i = rowMatch i := by
  cases i
  case gfmul a b => exact Laws.RowFits.gfmul a b
  case sub a => exact Laws.RowFits.sub a
  case subinv a => exact Laws.RowFits.subinv a
  all_goals rfl

/-- What a row's mask leaves out is the operand fields: there every word agrees with the encoder's
word of the command that has the word's operand bytes. -/
theorem and_not_rowMask :
    w &&& ~~~rowMask i = encode (i.readOperands w) &&& ~~~rowMask i := by
  have outsideAB : ~~~0x0000FFFF#32 = wordOfFields 0 0 0 0 0xFF 0xFF := by decide
  have outsideA : ~~~0xFF00FFFF#32 = wordOfFields 0 0 0 0 0xFF 0#8 := by decide
  cases i
  case gfmul | sub | subinv =>
    simp only [rowMask, outsideAB, outsideA, and_operandMask, encode, Instr.readOperands,
      fieldA_wordOfFields, fieldB_wordOfFields, BitVec.and_zero]
  all_goals exact BitVec.and_zero.trans BitVec.and_zero.symm

end

/-- A row matches exactly the words of its commands (R74): a matched word is the encoder's word of
the row's command with the operand bytes of the word. -/
theorem rowMatches_iff (w : Word) (i : Instr) :
    w &&& rowMask i = rowMatch i ↔ w = encode (i.readOperands w) := by
  have hrow : encode (i.readOperands w) &&& rowMask i = rowMatch i := by
    simpa using encode_and_rowMask (i.readOperands w)
  constructor
  · intro h
    exact eq_of_and_eq_of_and_not_eq (h.trans hrow.symm) (and_not_rowMask w i)
  · intro h
    rwa [← h] at hrow

/-! ### The statement -/

theorem decode_eq_ok_iff_row (w : Word) (i : Instr) :
    decode w = .ok i ↔ w &&& rowMask i = rowMatch i ∧ i.readOperands w = i := by
  rw [decode_eq_ok_iff, rowMatches_iff]
  constructor
  · rintro rfl
    rw [readOperands_encode]
    exact ⟨rfl, rfl⟩
  · rintro ⟨hw, hops⟩
    rwa [hops] at hw

/-- Two rows that match one word give it the same command, hence are one row. -/
theorem mnemonic_eq_of_rows_match {w : Word} {i j : Instr} (hi : w &&& rowMask i = rowMatch i)
    (hj : w &&& rowMask j = rowMatch j) : i.mnemonic = j.mnemonic := by
  have heq : i.readOperands w = j.readOperands w :=
    encode_injective (((rowMatches_iff w i).mp hi).symm.trans ((rowMatches_iff w j).mp hj))
  rw [← mnemonic_readOperands w i, heq, mnemonic_readOperands]

/-- Settles O3: the rows' values are the definitions' own; a row and the operand bytes determine the
word (`decode_eq_ok_iff_row`), and two rows of one word its command. -/
theorem rowSelectsCommand : Obligations.RowSelectsCommand := by
  refine ⟨?values, decode_eq_ok_iff_row, fun w i j => mnemonic_eq_of_rows_match⟩
  case values =>
    intro a b
    simp [rowMatch, rowMask]

end Sys2Proof
end

section
/-! GF(2^8) (spec/40_gf_and_tables.md R100 to R102) and the command `GFMUL` (R110). The loop of R102
forms its sum from the multiplicand by `xtime` and the exclusive-or alone, so every map that keeps
these two keeps the loop; that the product commutes follows. -/

namespace Sys2Proof.Machine

/-! ### Multiplication by `x` (R101) -/

theorem getLsbD_seven_eq_decide (a : Byte) : a.getLsbD 7 = decide (128 ≤ a.toNat) :=
  a.msb_eq_getLsbD_last.symm.trans a.msb_eq_decide

theorem toNat_xtime (a : Byte) : (xtime a).toNat
    = if 128 ≤ a.toNat then (2 * a.toNat % 256) ^^^ 0xC3 else 2 * a.toNat % 256 := by
  have hshift : (a <<< 1).toNat = 2 * a.toNat % 256 := by
    rw [BitVec.toNat_shiftLeft, Nat.shiftLeft_eq, pow_one, Nat.mul_comm]
  rw [xtime, getLsbD_seven_eq_decide, Bool.cond_decide]
  split_ifs
  case pos => rw [BitVec.toNat_xor, hshift]; rfl
  case neg => exact hshift

@[simp] theorem xtime_zero : xtime 0 = 0 := by decide

/-- `xtime` is linear: bit 7 of a sum is the sum of the bits 7, and two folds by 0xC3 cancel. -/
theorem xtime_xor (a b : Byte) : xtime (a ^^^ b) = xtime a ^^^ xtime b := by
  unfold xtime
  rw [BitVec.getLsbD_xor, BitVec.shiftLeft_xor_distrib]
  cases a.getLsbD 7 <;> cases b.getLsbD 7
  case false.false => rfl
  case false.true => exact BitVec.xor_assoc _ _ _
  case true.false => simp only [Bool.xor_false, cond_true, cond_false]; ac_rfl
  case true.true =>
    have cancel : (a <<< 1 ^^^ 0xC3#8) ^^^ (b <<< 1 ^^^ 0xC3#8)
        = (a <<< 1 ^^^ b <<< 1) ^^^ (0xC3#8 ^^^ 0xC3#8) := by ac_rfl
    rw [BitVec.xor_self, BitVec.xor_zero] at cancel
    exact cancel.symm

/-! ### The product (R102) -/

/-- A map that keeps `xtime` and the exclusive-or goes through the loop of R102. -/
theorem map_gfmulLoop {f : Byte → Byte} (hxtime : ∀ a, f (xtime a) = xtime (f a))
    (hxor : ∀ a r, f (a ^^^ r) = f a ^^^ f r) (b : Byte) (n i : Nat) (a r : Byte) :
    f (gfmulLoop b n i a r) = gfmulLoop b n i (f a) (f r) := by
  induction n generalizing i a r with
  | zero => rfl
  | succ n ih =>
    simp only [gfmulLoop]
    rw [ih, hxtime]
    cases b.getLsbD i
    case false => rfl
    case true => rw [cond_true, cond_true, hxor]

/-- The loop of R102 is linear in its multiplicand and its sum together. -/
theorem gfmulLoop_xor (b : Byte) (n i : Nat) (a a' r r' : Byte) :
    gfmulLoop b n i (a ^^^ a') (r ^^^ r') = gfmulLoop b n i a r ^^^ gfmulLoop b n i a' r' := by
  induction n generalizing i a a' r r' with
  | zero => rfl
  | succ n ih =>
    simp only [gfmulLoop]
    rw [xtime_xor, ← ih]
    cases b.getLsbD i
    case false => rfl
    case true =>
      simp only [cond_true]
      congr 1
      ac_rfl

theorem gfmul_xor_left (a a' b : Byte) : gfmul (a ^^^ a') b = gfmul a b ^^^ gfmul a' b :=
  gfmulLoop_xor b 8 0 a a' 0 0

theorem gfmul_xtime_left (a b : Byte) : gfmul (xtime a) b = xtime (gfmul a b) :=
  (map_gfmulLoop (fun _ => rfl) xtime_xor b 8 0 a 0).symm

@[simp] theorem gfmul_zero_left (b : Byte) : gfmul 0 b = 0 := by
  have h := gfmul_xor_left 0 0 b
  rwa [BitVec.xor_self, BitVec.xor_self] at h

/-- 1 is the unit, on each of the 256 bytes (R103). -/
@[simp] theorem gfmul_one_left (b : Byte) : gfmul 1 b = b := by
  revert b
  decide

/-- Multiplications commute with one another: `gfmul · b` keeps `xtime` and the exclusive-or, hence
the loop that multiplies by `a`. -/
theorem gfmul_gfmul_right_comm (c a b : Byte) : gfmul (gfmul c a) b = gfmul (gfmul c b) a := by
  have h := map_gfmulLoop (f := (gfmul · b)) (fun c => gfmul_xtime_left c b)
    (fun c c' => gfmul_xor_left c c' b) a 8 0 c 0
  simp only [gfmul_zero_left] at h
  exact h

/-- The operands commute (R103, R110): each is itself times 1. -/
theorem gfmul_comm (a b : Byte) : gfmul a b = gfmul b a := by
  have h := gfmul_gfmul_right_comm 1 a b
  rwa [gfmul_one_left, gfmul_one_left] at h

@[simp] theorem gfmul_zero_right (a : Byte) : gfmul a 0 = 0 := by
  rw [gfmul_comm, gfmul_zero_left]

/-! ### The command (R110) -/

/-- On a live core `GFMUL` has no check that can fail (R110). -/
theorem exec_gfmul {s : State} (h : s.Live) (a b : Byte) :
    exec (.gfmul a b) s = .next { s with x5 := (gfmul a b).setWidth 32, err := 0 } := by
  rw [exec_eq_command]
  exact command_ok h _ rfl _

theorem toNat_encode_gfmul (a b : Byte) :
    (encode (.gfmul a b)).toNat = 0x00000010 + 2 ^ 16 * a.toNat + 2 ^ 24 * b.toNat := by
  simp [encode, toNat_wordOfFields]

/-- A word of a table command whose bits 15:8 are not 0 is illegal (R72). -/
theorem decode_error_of_selector_ne_zero {w : Word}
    (hop : fieldOp w = 0x10#8 ∨ fieldOp w = 0x11#8 ∨ fieldOp w = 0x12#8)
    (hsel : w.extractLsb' 8 8 ≠ 0) : decode w = .error .selectorNotZero := by
  have hsel' : ¬ selectorZero w = true := by simpa [selectorZero] using hsel
  have hT : decodeFormatT w = .error .selectorNotZero := if_pos hsel'
  rw [← hT]
  obtain h | h | h := hop <;> simp [decode, h]

/-! ### The statements -/

/-- Settles O39: the rule is `toNat_xtime`, the five examples are evaluated. -/
theorem xtimeRule : Obligations.XtimeRule :=
  ⟨toNat_xtime, by decide, by decide, by decide, by decide, xtime_zero⟩

/-- Settles O30: the effect and the word by the rules of the command, the laws of the product by the
linearity of the loop of R102; the two examples are evaluated. -/
theorem gfmulCommand : Obligations.GfmulCommand := by
  refine ⟨fun a b s h => exec_gfmul h a b, fun a b s h => exec_faulted h _, toNat_encode_gfmul,
    ?illegal, ?laws, by decide, by decide⟩
  case illegal =>
    intro w hop hsel
    exact ⟨_, decode_error_of_selector_ne_zero (.inl hop) hsel⟩
  case laws =>
    intro a b
    exact ⟨gfmul_zero_left b, gfmul_zero_right a, gfmul_one_left b, gfmul_comm a b⟩

end Sys2Proof.Machine
end

section
/-! The key words of Magma (spec/42_magma.md R150). -/

namespace Sys2Proof.Machine

/-- Word `i` of the bank is the key word of the key's group `i` of four bytes. -/
theorem getElem_magKeyWords (key : Key) (i : Nat) (h : i < 8) :
    (magKeyWords key)[i] = magKeyWord key ⟨i, h⟩ := by
  simp [magKeyWords, getElem_seqOf]

/-- Settles O50: a word of the bank is the `LE32` of its group, whose value as a sum is
`toNat_le32`; the example is evaluated. -/
theorem magKeyWordsRule : Obligations.MagKeyWordsRule := by
  refine ⟨?sum, by decide⟩
  case sum =>
    intro key i h
    rw [getElem_magKeyWords]
    exact toNat_le32 _ _ _ _

end Sys2Proof.Machine
end

section
/-! The padding engine (spec/43_padding.md): what the scan for the last marker returns, and the two
commands with every outcome (R182, R186, R187). -/

namespace Sys2Proof.Machine

/-! ### The last marker (R182) -/

section
variable {b : Byte} {bs d : List Byte} {j : Nat}

theorem lastMarker_cons (b : Byte) (bs : List Byte) : lastMarker (b :: bs) =
    ((lastMarker bs).map (· + 1)).or (if b = padMark then some 0 else none) := by
  cases h : lastMarker bs <;> simp [lastMarker, h]

/-- The scan finds nothing exactly where there is no marker. -/
theorem lastMarker_eq_none_iff : lastMarker d = none ↔ padMark ∉ d := by
  induction d with
  | nil => simp [lastMarker]
  | cons b bs ih => simp [lastMarker_cons, ih, and_comm, eq_comm (a := padMark)]

/-- The first byte is the last marker when it is one and none follows. -/
theorem lastMarker_cons_eq_some_zero_iff :
    lastMarker (b :: bs) = some 0 ↔ b = padMark ∧ padMark ∉ bs := by
  rw [← lastMarker_eq_none_iff, lastMarker_cons]
  cases lastMarker bs <;> simp

/-- A later byte is the last marker when it is the last one of the rest. -/
theorem lastMarker_cons_eq_some_succ_iff :
    lastMarker (b :: bs) = some (j + 1) ↔ lastMarker bs = some j := by
  rw [lastMarker_cons]
  cases lastMarker bs with
  | some m => simp
  | none => split <;> simp

/-- No marker after index `j` of a list with a first byte: none in the rest from index `j` on. -/
theorem no_mark_after_cons_iff : (∀ k, j < k → (b :: bs)[k]? ≠ some padMark) ↔
    ∀ k, j ≤ k → bs[k]? ≠ some padMark := by
  constructor
  · intro h k hk
    exact h (k + 1) (Nat.lt_succ_of_le hk)
  · intro h k hk
    cases k with
    | zero => exact absurd hk (Nat.not_lt_zero j)
    | succ k => exact h k (Nat.le_of_lt_succ hk)

/-- The scan returns the greatest index that holds the marker. -/
theorem lastMarker_eq_some_iff :
    lastMarker d = some j ↔ d[j]? = some padMark ∧ ∀ k, j < k → d[k]? ≠ some padMark := by
  induction d generalizing j with
  | nil => simp [lastMarker]
  | cons b bs ih =>
    cases j with
    | zero =>
      rw [lastMarker_cons_eq_some_zero_iff, no_mark_after_cons_iff]
      simp [List.mem_iff_getElem?]
    | succ j =>
      rw [lastMarker_cons_eq_some_succ_iff, no_mark_after_cons_iff, ih, List.getElem?_cons_succ]
      rfl

end

/-! ### What a live command does, by the outcome of its checks (R200) -/

section
variable {s : State} {i : Instr}

theorem exec_ok (hs : s.Live) (hv : verdictOf s i = .ok) :
    exec i s = .next { effectOf s i with err := 0 } := by
  rw [exec_eq_command, command_ok hs i hv]

theorem exec_error {e : ErrorName} (hs : s.Live) (hv : verdictOf s i = .error e) :
    exec i s = .next (s.reportError e) := by
  rw [exec_eq_command, command_error hs i hv]

theorem exec_fault {f : FaultName} (hs : s.Live) (hv : verdictOf s i = .fault f) :
    exec i s = .next (s.raiseFault f (encode i)) := by
  rw [exec_eq_command, command_fault hs i hv]

end

/-- A length no greater than an operand is a register's value with no wrap (R21, R22). -/
theorem toNat_ofNat_of_le_toNat {n : Nat} {w : Word} (h : n ≤ w.toNat) :
    (BitVec.ofNat 32 n).toNat = n :=
  Nat.mod_eq_of_lt (Nat.lt_of_le_of_lt h w.isLt)

/-- `MemWrite` stores its bytes and no other (R51, R55). -/
theorem stores_memWrite (s : State) (addr : Nat) (v : List Byte) :
    Stores s (s.memWrite addr v) addr v :=
  ⟨s.byteAt_memWrite_inside addr v, s.byteAt_memWrite_outside addr v⟩

/-! ### `PAD.ADD` (R186) -/

theorem encode_padAdd : encode .padAdd = 0x00000020 := by decide

section
variable {s : State}

theorem State.padAddVerdict_blockSize (hbs : s.padBs = 0) :
    s.padAddVerdict = .fault .invalidBlockSize := if_pos hbs

theorem State.padAddVerdict_bounds (hbs : s.padBs ≠ 0)
    (h : s.cfg.dmemSize < s.srcAddr + s.srcLen ∨ s.dstLen < s.paddedLen ∨
      s.cfg.dmemSize < s.dstAddr + s.dstLen) : s.padAddVerdict = .fault .boundsFault := by
  obtain ⟨h0, -⟩ | ⟨-, -, hv⟩ | ⟨-, hsrc, hcap, hdst, -⟩ := s.padAddVerdict_cases
  · exact absurd h0 hbs
  · exact hv
  · omega

theorem State.padAddVerdict_ok (hbs : s.padBs ≠ 0) (hsrc : s.srcAddr + s.srcLen ≤ s.cfg.dmemSize)
    (hcap : s.paddedLen ≤ s.dstLen) (hdst : s.dstAddr + s.dstLen ≤ s.cfg.dmemSize) :
    s.padAddVerdict = .ok := by
  obtain ⟨h0, -⟩ | ⟨-, hn, -⟩ | ⟨-, -, -, -, hv⟩ := s.padAddVerdict_cases
  · exact absurd h0 hbs
  · exact absurd ⟨hsrc, hcap, hdst⟩ hn
  · exact hv

end

/-- Settles O36: the checks decide between the three outcomes, and the stored data is that of
`stores_memWrite`. -/
theorem padAddCommand : Obligations.PadAddCommand := by
  refine ⟨encode_padAdd, fun s hs => ⟨?blockSize, ?bounds, ?ok⟩⟩
  case blockSize =>
    intro hbs
    rw [exec_fault (i := .padAdd) hs (State.padAddVerdict_blockSize hbs), encode_padAdd]
    rfl
  case bounds =>
    intro hbs hfit
    rw [exec_fault (i := .padAdd) hs (State.padAddVerdict_bounds hbs hfit), encode_padAdd]
    rfl
  case ok =>
    intro hbs hsrc hcap hdst
    exact ⟨_, exec_ok hs (State.padAddVerdict_ok hbs hsrc hcap hdst), rfl,
      toNat_ofNat_of_le_toNat hcap, stores_memWrite s s.dstAddr _⟩

/-! ### `PAD.REM` (R187) -/

theorem encode_padRem : encode .padRem = 0x00000021 := by decide

section
variable {s : State} {j : Nat}

theorem State.getElem?_padData (s : State) (i : Nat) :
    s.padData[i]? = if i < s.srcLen then some (s.byteAt (s.srcAddr + i)) else none := by
  split
  · next h =>
    rw [List.getElem?_eq_getElem (by simpa [State.padData] using h)]
    exact congrArg some (s.getElem_memRead _ _ _ _)
  · next h => exact List.getElem?_eq_none (by simpa [State.padData] using h)

/-- A byte of the data of a padding command is a marker where the source holds one. -/
theorem State.getElem?_padData_eq_mark_iff (s : State) (i : Nat) :
    s.padData[i]? = some padMark ↔ i < s.srcLen ∧ s.byteAt (s.srcAddr + i) = padMark := by
  rw [s.getElem?_padData]
  simp

/-- The scan of the declared source returns the index R182 names. -/
theorem State.lastMarker_padData_eq_some_iff :
    lastMarker s.padData = some j ↔ s.LastMarkerAt j := by
  simp only [lastMarker_eq_some_iff, ne_eq, s.getElem?_padData_eq_mark_iff, not_and]
  constructor
  · rintro ⟨⟨hj, hm⟩, hlast⟩
    exact ⟨hj, hm, fun k hk hjk => hlast k hjk hk⟩
  · rintro ⟨hj, hm, hlast⟩
    exact ⟨⟨hj, hm⟩, fun k hjk hk => hlast k hk hjk⟩

/-- The scan of the declared source finds nothing where it holds no marker. -/
theorem State.lastMarker_padData_eq_none_iff :
    lastMarker s.padData = none ↔ ∀ j, j < s.srcLen → s.byteAt (s.srcAddr + j) ≠ 0x80#8 := by
  simp only [lastMarker_eq_none_iff, List.mem_iff_getElem?, s.getElem?_padData_eq_mark_iff,
    not_exists, not_and]
  exact Iff.rfl

theorem State.padRemVerdict_bounds (h : s.cfg.dmemSize < s.srcAddr + s.srcLen) :
    s.padRemVerdict = .fault .boundsFault := by
  obtain ⟨-, hv⟩ | ⟨hsrc, -⟩ | ⟨hsrc, -⟩ := s.padRemVerdict_cases
  · exact hv
  · omega
  · omega

theorem State.padRemVerdict_notFound (hsrc : s.srcAddr + s.srcLen ≤ s.cfg.dmemSize)
    (h : lastMarker s.padData = none) : s.padRemVerdict = .error .paddingNotFound := by
  obtain ⟨hout, -⟩ | ⟨-, -, hv⟩ | ⟨-, ⟨j, hj⟩, -⟩ := s.padRemVerdict_cases
  · omega
  · exact hv
  · simp [h] at hj

theorem State.padRemVerdict_ok (hsrc : s.srcAddr + s.srcLen ≤ s.cfg.dmemSize)
    (h : lastMarker s.padData = some j) : s.padRemVerdict = .ok := by
  obtain ⟨hout, -⟩ | ⟨-, hnone, -⟩ | ⟨-, -, hv⟩ := s.padRemVerdict_cases
  · omega
  · simp [h] at hnone
  · exact hv

end

/-- Settles O37: the checks decide between the three outcomes, and the index is that of
`State.lastMarker_padData_eq_some_iff`. -/
theorem padRemCommand : Obligations.PadRemCommand := by
  refine ⟨encode_padRem, fun s hs => ⟨?bounds, ?notFound, ?ok⟩⟩
  case bounds =>
    intro hsrc
    rw [exec_fault (i := .padRem) hs (State.padRemVerdict_bounds hsrc), encode_padRem]
    rfl
  case notFound =>
    intro hsrc hnone
    exact exec_error (i := .padRem) hs
      (State.padRemVerdict_notFound hsrc (State.lastMarker_padData_eq_none_iff.mpr hnone))
  case ok =>
    intro hsrc j hj
    have hm : lastMarker s.padData = some j := State.lastMarker_padData_eq_some_iff.mpr hj
    obtain ⟨hlt, -⟩ := hj
    refine ⟨_, exec_ok hs (State.padRemVerdict_ok hsrc hm), rfl, ?_⟩
    simpa [effectOf, hm] using toNat_ofNat_of_le_toNat (Nat.le_of_lt hlt)

/-! ### `RemovePadding` (R182) -/

/-- Settles O57: the scan is `lastMarker_eq_some_iff` and `lastMarker_eq_none_iff`; the two examples
are evaluated. -/
theorem removePaddingRule : Obligations.RemovePaddingRule := by
  refine ⟨?found, ?notFound, by decide, by decide⟩
  case found =>
    intro d j hj hlast
    have hm : lastMarker d = some j := lastMarker_eq_some_iff.mpr ⟨hj, hlast⟩
    exact ⟨hm, by rw [removePadding, hm, Option.map_some]⟩
  case notFound =>
    intro d
    rw [removePadding, Option.map_eq_none_iff]
    exact lastMarker_eq_none_iff

end Sys2Proof.Machine
end

section
/-! The block-size commands of the contract (spec/44_contract.md R203, R204). -/

namespace Sys2Proof.Machine

theorem encode_kuzBlksz : encode .kuzBlksz = 0x00000001 := by decide

theorem encode_magBlksz : encode .magBlksz = 0x00000101 := by decide

section
variable {s : State}

/-- `KUZ.BLKSZ` has no check that can fail: `KV` is not read (R203). -/
theorem exec_kuzBlksz (hs : s.Live) : exec .kuzBlksz s = .next { s with x5 := 16, err := 0 } :=
  exec_ok (i := .kuzBlksz) hs rfl

/-- `MAG.BLKSZ` has no check that can fail: `MV` is not read (R204). -/
theorem exec_magBlksz (hs : s.Live) : exec .magBlksz s = .next { s with x5 := 8, err := 0 } :=
  exec_ok (i := .magBlksz) hs rfl

end

/-- Settles O28: the two words, and the rule of each command, by the shape every command has. -/
theorem blockSizeCommands : Obligations.BlockSizeCommands :=
  ⟨encode_kuzBlksz, encode_magBlksz, fun _ hs => ⟨exec_kuzBlksz hs, exec_magBlksz hs⟩⟩

end Sys2Proof.Machine
end

section
/-! The command word as a whole (spec/30_encoding.md R74 to R76): the decoder and the encoder are
inverse, which words are illegal, and how many are legal. -/

namespace Sys2Proof.Machine

/-- Settles O1: `decode_encode`. -/
theorem decodeOfEncode : Obligations.DecodeOfEncode := decode_encode

/-- Settles O2: `encode_of_decode`. -/
theorem encodeOfDecode : Obligations.EncodeOfDecode := fun _ _ => encode_of_decode

/-- The sample words are the encoder's words of the sample commands, one for each family. -/
theorem encode_samples :
    encode .kuzBlksz = 0x00000001#32 ∧ encode .magSetkeyStd = 0x00000502#32 ∧
    encode .kuzEnc = 0x00000003#32 ∧ encode .magDec = 0x00000104#32 ∧
    encode (.gfmul 0x02 0x80) = 0x80020010#32 ∧ encode (.sub 0xFF) = 0x00FF0011#32 ∧
    encode (.subinv 0xFC) = 0x00FC0012#32 ∧ encode .padAdd = 0x00000020#32 ∧
    encode .padRem = 0x00000021#32 := by decide

/-- Settles O5: a word decodes to the command whose word it is (`decode_eq_ok_iff`). -/
theorem sampleWordsDecode : Obligations.SampleWordsDecode := by
  obtain ⟨hblksz, hsetkey, henc, hdec, hgfmul, hsub, hsubinv, hadd, hrem⟩ := encode_samples
  simp only [Obligations.SampleWordsDecode, decode_eq_ok_iff]
  exact ⟨hblksz.symm, hsetkey.symm, henc.symm, hdec.symm, hgfmul.symm, hsub.symm, hsubinv.symm,
    hadd.symm, hrem.symm⟩

/-! ### The illegal words, format by format (R76) -/

section
variable {w : Word}

/-- The decoder of a word with an operation code of format K, T or P is that of its format (R75). -/
theorem decode_formatK (h : fieldOp w ∈ [0x01#8, 0x02#8, 0x03#8, 0x04#8]) :
    decode w = decodeFormatK w :=
  if_pos (by simpa using h)

theorem decode_formatT (h : fieldOp w ∈ [0x10#8, 0x11#8, 0x12#8]) : decode w = decodeFormatT w := by
  simp only [List.mem_cons, List.not_mem_nil, or_false] at h
  obtain h | h | h := h <;> simp [decode, h]

theorem decode_formatP (h : fieldOp w ∈ [0x20#8, 0x21#8]) : decode w = decodeFormatP w := by
  simp only [List.mem_cons, List.not_mem_nil, or_false] at h
  obtain h | h := h <;> simp [decode, h]

theorem decode_unknownOp (h : fieldOp w ∉
    [0x01#8, 0x02#8, 0x03#8, 0x04#8, 0x10#8, 0x11#8, 0x12#8, 0x20#8, 0x21#8]) :
    decode w = .error .unknownOp := by
  simp only [List.mem_cons, List.not_mem_nil, or_false, not_or] at h
  simp [decode, h]

/-- An operation code of format K names a command in each of the three ciphers (R71). -/
theorem exists_decode_ok_of_mem {op : Byte} (h : op ∈ [0x01#8, 0x02#8, 0x03#8, 0x04#8]) :
    (∃ i, decodeKuz op = .ok i) ∧ (∃ i, decodeMag op = .ok i) ∧ ∃ i, decodeMagStd op = .ok i := by
  simp only [List.mem_cons, List.not_mem_nil, or_false] at h
  obtain rfl | rfl | rfl | rfl := h <;> exact ⟨⟨_, rfl⟩, ⟨_, rfl⟩, ⟨_, rfl⟩⟩

/-- The values of `CIPH`: the two ciphers, and the reserved ones (R70). -/
theorem fieldCiph_cases (c : BitVec 2) : c = 0#2 ∨ c = 1#2 ∨ (2 ≤ c.toNat ∧ c ≠ 0#2 ∧ c ≠ 1#2) := by
  revert c; decide

/-- The illegal words of format K (R71, R76). -/
theorem decodeFormatK_error_iff (hop : fieldOp w ∈ [0x01#8, 0x02#8, 0x03#8, 0x04#8]) :
    (∃ r, decodeFormatK w = .error r) ↔ fieldZ w ≠ 0 ∨ fieldA w ≠ 0 ∨ fieldB w ≠ 0 ∨
      2 ≤ (fieldCiph w).toNat ∨ (fieldStd w = 1 ∧ fieldCiph w ≠ 1) := by
  obtain ⟨⟨i, hk⟩, ⟨j, hm⟩, ⟨l, hs⟩⟩ := exists_decode_ok_of_mem hop
  by_cases hz : fieldZ w = 0#5
  case neg => simp [decodeFormatK, hz]
  by_cases ha : fieldA w = 0#8
  case neg => simp [decodeFormatK, hz, ha]
  by_cases hb : fieldB w = 0#8
  case neg => simp [decodeFormatK, hz, ha, hb]
  obtain hstd | hstd := BitVec.eq_zero_or_eq_one (fieldStd w) <;>
    obtain hc | hc | ⟨hc, hc0, hc1⟩ := fieldCiph_cases (fieldCiph w)
  all_goals simp [decodeFormatK, *]

/-- The illegal words of format T (R72, R76). -/
theorem decodeFormatT_error_iff (hop : fieldOp w ∈ [0x10#8, 0x11#8, 0x12#8]) :
    (∃ r, decodeFormatT w = .error r) ↔
      w.extractLsb' 8 8 ≠ 0 ∨ (fieldOp w ∈ [0x11#8, 0x12#8] ∧ fieldB w ≠ 0) := by
  simp only [List.mem_cons, List.not_mem_nil, or_false] at hop
  by_cases hsel : w.extractLsb' 8 8 = 0#8
  case neg => simp [decodeFormatT, selectorZero, hsel]
  by_cases hb : fieldB w = 0#8
  all_goals obtain h | h | h := hop <;> simp [decodeFormatT, selectorZero, hsel, hb, h]

/-- Bits 31:8 are bits 15:8 and the operand fields (R73). -/
theorem extractLsb'_eight_eq_zero_iff (w : Word) :
    w.extractLsb' 8 24 = 0 ↔ w.extractLsb' 8 8 = 0 ∧ fieldA w = 0 ∧ fieldB w = 0 := by
  have := w.isLt
  simp only [fieldA, fieldB, ← BitVec.toNat_inj, BitVec.extractLsb'_toNat,
    Nat.shiftRight_eq_div_pow, BitVec.ofNat_eq_ofNat, BitVec.toNat_ofNat]
  omega

/-- The illegal words of format P (R73, R76). -/
theorem decodeFormatP_error_iff (hop : fieldOp w ∈ [0x20#8, 0x21#8]) :
    (∃ r, decodeFormatP w = .error r) ↔ w.extractLsb' 8 24 ≠ 0 := by
  simp only [List.mem_cons, List.not_mem_nil, or_false] at hop
  rw [ne_eq, extractLsb'_eight_eq_zero_iff]
  by_cases hsel : w.extractLsb' 8 8 = 0#8
  case neg => simp [decodeFormatP, selectorZero, hsel]
  by_cases hab : fieldA w = 0#8 ∧ fieldB w = 0#8
  case neg =>
    have hab' : fieldA w ≠ 0#8 ∨ fieldB w ≠ 0#8 := Classical.not_and_iff_not_or_not.mp hab
    simp [decodeFormatP, selectorZero, hsel, hab', hab]
  obtain h | h := hop <;> simp [decodeFormatP, selectorZero, hsel, hab, h]

end

/-- The case list of R76: by the format of the operation code, or none. -/
theorem decode_error_iff (w : Word) : (∃ r, decode w = .error r) ↔
    (fieldOp w ∉ [0x01#8, 0x02#8, 0x03#8, 0x04#8, 0x10#8, 0x11#8, 0x12#8, 0x20#8, 0x21#8]) ∨
    (fieldOp w ∈ [0x01#8, 0x02#8, 0x03#8, 0x04#8] ∧
      (fieldZ w ≠ 0 ∨ fieldA w ≠ 0 ∨ fieldB w ≠ 0 ∨ 2 ≤ (fieldCiph w).toNat ∨
        (fieldStd w = 1 ∧ fieldCiph w ≠ 1))) ∨
    (fieldOp w = 0x10#8 ∧ w.extractLsb' 8 8 ≠ 0) ∨
    (fieldOp w ∈ [0x11#8, 0x12#8] ∧ (w.extractLsb' 8 8 ≠ 0 ∨ fieldB w ≠ 0)) ∨
    (fieldOp w ∈ [0x20#8, 0x21#8] ∧ w.extractLsb' 8 24 ≠ 0) := by
  by_cases hK : fieldOp w ∈ [0x01#8, 0x02#8, 0x03#8, 0x04#8]
  · rw [decode_formatK hK, decodeFormatK_error_iff hK]
    simp only [List.mem_cons, List.not_mem_nil, or_false] at hK
    obtain h | h | h | h := hK <;> simp [h]
  by_cases hT : fieldOp w ∈ [0x10#8, 0x11#8, 0x12#8]
  · rw [decode_formatT hT, decodeFormatT_error_iff hT]
    simp only [List.mem_cons, List.not_mem_nil, or_false] at hT
    obtain h | h | h := hT <;> simp [h]
  by_cases hP : fieldOp w ∈ [0x20#8, 0x21#8]
  · rw [decode_formatP hP, decodeFormatP_error_iff hP]
    simp only [List.mem_cons, List.not_mem_nil, or_false] at hP
    obtain h | h := hP <;> simp [h]
  · have hnone : fieldOp w ∉
        [0x01#8, 0x02#8, 0x03#8, 0x04#8, 0x10#8, 0x11#8, 0x12#8, 0x20#8, 0x21#8] := by
      simp only [List.mem_cons, List.not_mem_nil, or_false, not_or] at hK hT hP ⊢
      tauto
    exact iff_of_true ⟨_, decode_unknownOp hnone⟩ (.inl hnone)

/-- An illegal word written to `CMD` of a live core is recorded and changes nothing else (R225,
R230). -/
theorem step_illegalWord {s : State} {w : Word} {r : Illegal} {rest : List HostRequest}
    (hs : s.Live) (h : s.script = .wr .cmd w :: rest) (hd : decode w = .error r) :
    step s = .next { s.advance rest with fault := 1, finfo := w } := by
  rw [step_wr h]
  have hlive : (s.advance rest).fault = 0#32 := hs
  obtain ⟨hf, -⟩ | ⟨-, -, he⟩ | ⟨-, i, hi, -⟩ := executeWord_cases w (s.advance rest)
  · exact absurd hlive hf
  · exact he
  · rw [hd] at hi; cases hi

/-! ### The number of legal words -/

/-- The commands without operand bytes. -/
def plainCommand : Fin 14 → Instr :=
  ![.kuzBlksz, .magBlksz, .magBlkszStd, .kuzSetkey, .magSetkey, .magSetkeyStd, .kuzEnc, .magEnc,
    .magEncStd, .kuzDec, .magDec, .magDecStd, .padAdd, .padRem]

/-- The commands, counted: those without operand bytes, `GFMUL`, `SUB` and `SUBINV`. -/
def commandOf : Fin 14 ⊕ (Byte × Byte) ⊕ Byte ⊕ Byte → Instr
  | .inl n => plainCommand n
  | .inr (.inl (a, b)) => .gfmul a b
  | .inr (.inr (.inl a)) => .sub a
  | .inr (.inr (.inr a)) => .subinv a

theorem commandOf_surjective : Function.Surjective commandOf := by
  have plain (n : Fin 14) : ∃ x, commandOf x = plainCommand n := ⟨.inl n, rfl⟩
  intro i
  cases i with
  | gfmul a b => exact ⟨.inr (.inl (a, b)), rfl⟩
  | sub a => exact ⟨.inr (.inr (.inl a)), rfl⟩
  | subinv a => exact ⟨.inr (.inr (.inr a)), rfl⟩
  | kuzBlksz => exact plain 0
  | magBlksz => exact plain 1
  | magBlkszStd => exact plain 2
  | kuzSetkey => exact plain 3
  | magSetkey => exact plain 4
  | magSetkeyStd => exact plain 5
  | kuzEnc => exact plain 6
  | magEnc => exact plain 7
  | magEncStd => exact plain 8
  | kuzDec => exact plain 9
  | magDec => exact plain 10
  | magDecStd => exact plain 11
  | padAdd => exact plain 12
  | padRem => exact plain 13

/-- The commands without operand bytes have different mnemonics, none that of a table command. -/
theorem plainCommand_mnemonic (n : Fin 14) :
    (∀ m, (plainCommand n).mnemonic = (plainCommand m).mnemonic → n = m) ∧
    (plainCommand n).mnemonic ∉ ["GFMUL", "SUB", "SUBINV"] := by
  revert n; decide

theorem mnemonic_commandOf_inr (x : (Byte × Byte) ⊕ Byte ⊕ Byte) :
    (commandOf (.inr x)).mnemonic ∈ ["GFMUL", "SUB", "SUBINV"] := by
  obtain ⟨a, b⟩ | a | a := x <;> simp [commandOf, Instr.mnemonic]

theorem commandOf_injective : Function.Injective commandOf := by
  intro x y h
  have hm : (commandOf x).mnemonic = (commandOf y).mnemonic := congrArg _ h
  obtain n | x := x <;> obtain m | y := y
  case inl.inl => rw [(plainCommand_mnemonic n).1 m hm]
  case inl.inr => exact absurd (hm ▸ mnemonic_commandOf_inr y) (plainCommand_mnemonic n).2
  case inr.inl => exact absurd (hm ▸ mnemonic_commandOf_inr x) (plainCommand_mnemonic m).2
  case inr.inr =>
    obtain ⟨a, b⟩ | a | a := x <;> obtain ⟨c, d⟩ | c | c := y <;> cases h <;> rfl

theorem card_byte : Fintype.card Byte = 256 :=
  (Fintype.card_congr BitVec.equivFin.toEquiv).trans (Fintype.card_fin _)

/-- The legal words are the words of the commands. -/
theorem legalWords_eq_image :
    ((Finset.range (2 ^ 32)).filter fun n => (decode (BitVec.ofNat 32 n)).isOk)
      = Finset.univ.image fun x => (encode (commandOf x)).toNat := by
  ext n
  simp only [Finset.mem_filter, Finset.mem_range, Finset.mem_image, Finset.mem_univ, true_and]
  constructor
  · rintro ⟨hn, hok⟩
    cases hd : decode (BitVec.ofNat 32 n) with
    | error r => rw [hd] at hok; cases hok
    | ok i =>
      obtain ⟨x, rfl⟩ := commandOf_surjective i
      exact ⟨x, by rw [encode_of_decode hd, BitVec.toNat_ofNat, Nat.mod_eq_of_lt hn]⟩
  · rintro ⟨x, rfl⟩
    refine ⟨(encode (commandOf x)).isLt, ?_⟩
    rw [BitVec.ofNat_toNat, BitVec.setWidth_eq, decode_encode]
    rfl

/-- 14 + 256 * 256 + 256 + 256 commands, each with one word. -/
theorem card_legalWords :
    ((Finset.range (2 ^ 32)).filter fun n => (decode (BitVec.ofNat 32 n)).isOk).card = 66062 := by
  have hinj : Function.Injective fun x => (encode (commandOf x)).toNat := fun x y h =>
    commandOf_injective (encode_injective (BitVec.eq_of_toNat_eq h))
  rw [legalWords_eq_image, Finset.card_image_of_injective _ hinj, Finset.card_univ]
  simp only [Fintype.card_sum, Fintype.card_prod, Fintype.card_fin, card_byte]

/-- Settles O4: the case list by format, the fault entry by `executeWord_cases`, and the count by
counting commands, since each has one word. -/
theorem illegalWords : Obligations.IllegalWords :=
  ⟨decode_error_iff, fun _ _ _ _ hs h hd => step_illegalWord hs h hd, card_legalWords⟩

end Sys2Proof.Machine
end

section
/-! Adding padding and removing it again (spec/43_padding.md R180 to R183). -/

namespace Sys2Proof.Machine

section
variable {bs : Nat} (n : Nat) (d : List Byte)

/-- The padded length is the length and what is missing to the next multiple (R180, R181). -/
theorem padLen_eq_add (hbs : 1 ≤ bs) : padLen n bs = n + (bs - n % bs) := by
  have hdiv := Nat.div_add_mod' n bs
  have hmod := Nat.mod_lt n hbs
  rw [padLen, Nat.add_mul, Nat.one_mul]
  omega

theorem lt_padLen (hbs : 1 ≤ bs) : n < padLen n bs := by
  have hmod := Nat.mod_lt n hbs
  rw [padLen_eq_add n hbs]
  omega

/-- No multiple of the block size lies between a length and its padded length. -/
theorem padLen_le_of_dvd {m : Nat} (hm : bs ∣ m) (h : n < m) : padLen n bs ≤ m := by
  obtain ⟨q, rfl⟩ := hm
  rw [padLen, Nat.mul_comm bs q]
  exact Nat.mul_le_mul_right bs (Nat.succ_le_of_lt (Nat.div_lt_of_lt_mul h))

theorem length_addPadding (hbs : 1 ≤ bs) : (addPadding d bs).length = padLen d.length bs := by
  have := lt_padLen d.length hbs
  simp only [addPadding, List.length_append, List.length_cons, List.length_nil,
    List.length_replicate]
  omega

/-- The marker that padding adds is the last one: only zeros follow it. -/
theorem lastMarker_addPadding : lastMarker (addPadding d bs) = some d.length := by
  rw [lastMarker_eq_some_iff, addPadding, List.append_assoc]
  constructor
  · simp
  · intro k hk
    rw [List.getElem?_append_right (Nat.le_of_lt hk), List.getElem?_append_right (by simp; omega),
      List.getElem?_replicate]
    split <;> simp [padMark]

end

/-- Settles O56: the sum `padLen_eq_add`, and `padLen_le_of_dvd` for the least multiple; the three
numbers are evaluated. -/
theorem paddingGrows : Obligations.PaddingGrows := by
  refine ⟨fun d bs hbs => ?grows, ?empty, ?one, by decide, by decide, by decide⟩
  case grows =>
    rw [length_addPadding d hbs]
    refine ⟨rfl, rfl, Nat.dvd_mul_left _ _, lt_padLen _ hbs, fun m => padLen_le_of_dvd _, ?_⟩
    rw [padLen_eq_add _ hbs, Nat.add_sub_cancel_left]
  case empty =>
    intro bs hbs
    rw [padLen_eq_add 0 hbs, Nat.zero_mod, Nat.zero_add, Nat.sub_zero]
  case one =>
    intro n
    rw [padLen, Nat.div_one, Nat.mul_one]

/-- Settles O58: the last marker is the one that was added, so what stands before it is the data. -/
theorem paddingRoundTrip : Obligations.PaddingRoundTrip := by
  intro d bs _
  rw [removePadding, lastMarker_addPadding, Option.map_some, addPadding, List.append_assoc,
    List.take_left]

end Sys2Proof.Machine
end

section
/-! The host port (spec/30_encoding.md R79, R80, spec/20_memory.md R51, R57): one rule for each host
action as a step, and the statements about single actions. -/

namespace Sys2Proof.Machine

/-! ### One rule for each host action -/

section
variable {s : State} {rest : List HostRequest}

/-- A legal command word runs its command after the action has been taken off the script (R200). -/
theorem step_command {w : Word} {i : Instr} (h : s.script = .wr .cmd w :: rest)
    (hd : decode w = .ok i) : step s = exec i (s.advance rest) :=
  (step_wr h).trans (executeWord_of_decode hd _)

theorem step_mw {a : Nat} {bs : List Byte} (h : s.script = .mw a bs :: rest)
    (hin : a + bs.length ≤ s.cfg.dmemSize) : step s = .next ((s.advance rest).memWrite a bs) :=
  step_cons h (decide_eq_true hin)

theorem step_mr {a n : Nat} (h : s.script = .mr a n :: rest) (hin : a + n ≤ s.cfg.dmemSize) :
    step s = .next ((s.advance rest).reply (.bytes (s.memRead a n))) :=
  step_cons h (decide_eq_true hin)

theorem step_reset (h : s.script = .reset :: rest) : step s = .next (s.advance rest).hostReset :=
  step_cons h rfl

theorem step_mw_outside {a : Nat} {bs : List Byte} (h : s.script = .mw a bs :: rest)
    (hout : s.cfg.dmemSize < a + bs.length) : step s = .refused .hostAddressOutsideDmem :=
  step_outside h (decide_eq_false (Nat.not_le_of_lt hout))

theorem step_mr_outside {a n : Nat} (h : s.script = .mr a n :: rest)
    (hout : s.cfg.dmemSize < a + n) : step s = .refused .hostAddressOutsideDmem :=
  step_outside h (decide_eq_false (Nat.not_le_of_lt hout))

/-- An `MW` inside `DMEM` stores its bytes and changes nothing else of the core (R80). -/
theorem step_mw_stores {a : Nat} {bs : List Byte} (h : s.script = .mw a bs :: rest)
    (hin : a + bs.length ≤ s.cfg.dmemSize) :
    ∃ t, step s = .next t ∧ t = { s.advance rest with dmem := t.dmem } ∧ Stores s t a bs :=
  ⟨_, step_mw h hin, rfl, stores_memWrite (s.advance rest) a bs⟩

/-- An `MR` inside `DMEM` returns the bytes there and changes nothing of the core (R80). -/
theorem step_mr_returns {a n : Nat} (h : s.script = .mr a n :: rest)
    (hin : a + n ≤ s.cfg.dmemSize) :
    ∃ bs : List Byte, bs.length = n ∧ (∀ i (h : i < bs.length), bs[i] = s.byteAt (a + i)) ∧
      step s = .next { s.advance rest with replies := s.replies ++ [.bytes bs] } :=
  ⟨_, s.length_memRead a n, s.getElem_memRead a n, step_mr h hin⟩

end

/-- `STATUS` is 0 when no flag is set (R24). -/
theorem State.status_eq_zero {s : State} (hf : s.fault = 0#32) (hk : s.kv = false)
    (hm : s.mv = false) : s.status = 0 := by
  rw [State.status, (State.faulted_eq_false_iff s).mpr hf, hk, hm]
  rfl

/-! ### The statements -/

/-- Settles O6: `step_command`. -/
theorem stepRunsDecodedCommand : Obligations.StepRunsDecodedCommand :=
  fun _ _ _ _ => step_command

/-- Settles O8: the rules of `MW` and `MR`, inside `DMEM` and outside. -/
theorem hostMemoryAccess : Obligations.HostMemoryAccess :=
  fun _ _ _ => ⟨fun _ => step_mw_stores, fun _ => step_mr_returns, fun _ => step_mw_outside,
    fun _ => step_mr_outside⟩

/-- Settles O9: the step is `hostReset`, whose fields are the values of R250. -/
theorem resetActionClears : Obligations.ResetActionClears :=
  fun _ _ h => ⟨_, step_reset h, rfl, rfl, rfl, rfl, rfl, rfl, rfl, rfl, rfl, rfl, rfl,
    State.status_eq_zero rfl rfl rfl, rfl, rfl, rfl, rfl⟩

/-- Settles O10: the fields of `State.reset` as they stand. -/
theorem registersAfterReset : Obligations.RegistersAfterReset :=
  ⟨rfl, rfl, rfl, rfl, rfl, rfl, rfl, rfl, rfl, rfl, rfl, State.status_eq_zero rfl rfl rfl⟩

/-- Settles O60: two register writes, one after the other. -/
theorem pseudoInstructions : Obligations.PseudoInstructions := by
  intro s addr len rest
  constructor
  all_goals
    intro h
    refine ⟨_, step_wr h, ?_⟩
    rw [step_wr rfl]
    rfl

/-- Settles O27: reads and writes at every index, and the two reads of the contract by the same
rule. -/
theorem memoryPrimitives : Obligations.MemoryPrimitives :=
  fun s addr => ⟨fun n => ⟨s.length_memRead addr n, s.getElem_memRead addr n⟩,
    fun v => ⟨stores_memWrite s addr v, rfl⟩, rfl, rfl, s.getElem_memReadSeq s.srcAddr 32,
    s.getElem_memReadSeq s.srcAddr⟩

/-- Settles O59: the operand names are definitions, and each range check is `State.inRange_iff`. -/
theorem operandsAreRegisters : Obligations.OperandsAreRegisters :=
  fun s => ⟨⟨rfl, rfl, rfl, rfl, rfl⟩, s.inRange_iff, s.inRange_iff s.srcAddr s.srcLen,
    s.inRange_iff s.dstAddr s.dstLen⟩

end Sys2Proof.Machine
end

section
/-! What a command and a host action can change: one inversion rule for a command, one for a step,
and the frame of each (spec/44_contract.md R200, spec/30_encoding.md R80). -/

namespace Sys2Proof.Machine

/-! ### One command -/

section
variable {i : Instr} {s t : State}

/-- Everything a command can do (R200, R233), from its next state. -/
theorem exec_next_cases (h : exec i s = .next t) :
    (s.fault ≠ 0#32 ∧ t = s) ∨
    (s.Live ∧ verdictOf s i = .ok ∧ t = { effectOf s i with err := 0 }) ∨
    (s.Live ∧ ∃ e, verdictOf s i = .error e ∧ t = s.reportError e) ∨
    (s.Live ∧ ∃ f, verdictOf s i = .fault f ∧ t = s.raiseFault f (encode i)) := by
  rw [exec_eq_command] at h
  obtain ⟨hs, hc⟩ | ⟨hs, hv, hc⟩ | ⟨hs, e, hv, hc⟩ | ⟨hs, f, hv, hc⟩ :=
    command_cases i (verdictOf s i) (effectOf s i) s
  all_goals
    rw [hc] at h
    cases h
  · exact .inl ⟨hs, rfl⟩
  · exact .inr (.inl ⟨hs, hv, rfl⟩)
  · exact .inr (.inr (.inl ⟨hs, e, hv, rfl⟩))
  · exact .inr (.inr (.inr ⟨hs, f, hv, rfl⟩))

/-- An effect writes `x[5]`, the contexts and `DMEM` alone (R208). -/
theorem effectOf_frame (s : State) (i : Instr) : effectOf s i =
    { s with
      x5 := (effectOf s i).x5, kv := (effectOf s i).kv, kuzRk := (effectOf s i).kuzRk
      mv := (effectOf s i).mv, magK := (effectOf s i).magK, dmem := (effectOf s i).dmem } := by
  cases i <;> rfl

@[simp] theorem effectOf_fault (s : State) (i : Instr) : (effectOf s i).fault = s.fault := by
  rw [effectOf_frame]

@[simp] theorem effectOf_finfo (s : State) (i : Instr) : (effectOf s i).finfo = s.finfo := by
  rw [effectOf_frame]

/-- A command leaves the operand registers, the parameters and what the host holds as they were. -/
theorem exec_frame (h : exec i s = .next t) : t =
    { s with
      x5 := t.x5, err := t.err, fault := t.fault, finfo := t.finfo, kv := t.kv, kuzRk := t.kuzRk
      mv := t.mv, magK := t.magK, dmem := t.dmem } := by
  obtain ⟨-, rfl⟩ | ⟨-, -, rfl⟩ | ⟨-, e, -, rfl⟩ | ⟨-, f, -, rfl⟩ := exec_next_cases h
  case inr.inl => cases i <;> rfl
  all_goals rfl

end

/-! ### The checks of a command -/

section
variable {s : State} {valid : Bool} {bs : Nat}

theorem State.setkeyVerdict_eq_ok (h : s.setkeyVerdict = .ok) :
    s.srcLen = 32 ∧ s.srcAddr + 32 ≤ s.cfg.dmemSize := by
  obtain ⟨-, hv⟩ | ⟨-, -, hv⟩ | ⟨hlen, hin, -⟩ := s.setkeyVerdict_cases
  · rw [hv] at h; cases h
  · rw [hv] at h; cases h
  · exact ⟨hlen, hin⟩

theorem State.blockVerdict_eq_ok (h : s.blockVerdict valid bs = .ok) :
    valid = true ∧ s.BlockBuffersFit bs := by
  obtain ⟨-, hv⟩ | ⟨-, -, hv⟩ | ⟨hvalid, hfit, -⟩ := s.blockVerdict_cases valid bs
  · rw [hv] at h; cases h
  · rw [hv] at h; cases h
  · exact ⟨hvalid, hfit⟩

theorem State.padAddVerdict_eq_ok (h : s.padAddVerdict = .ok) :
    s.padBs ≠ 0 ∧ s.paddedLen ≤ s.dstLen ∧ s.dstAddr + s.dstLen ≤ s.cfg.dmemSize := by
  obtain ⟨-, hv⟩ | ⟨-, -, hv⟩ | ⟨hbs, -, hcap, hdst, -⟩ := s.padAddVerdict_cases
  · rw [hv] at h; cases h
  · rw [hv] at h; cases h
  · exact ⟨hbs, hcap, hdst⟩

/-- An illegal word is no command, so no command's checks raise its fault (R225). -/
theorem verdictOf_ne_illegalCommand (s : State) (i : Instr) :
    verdictOf s i ≠ .fault .illegalCommand := by
  have setkey : s.setkeyVerdict ≠ .fault .illegalCommand := by
    obtain ⟨-, h⟩ | ⟨-, -, h⟩ | ⟨-, -, h⟩ := s.setkeyVerdict_cases <;> simp [h]
  have block (valid : Bool) (bs : Nat) : s.blockVerdict valid bs ≠ .fault .illegalCommand := by
    obtain ⟨-, h⟩ | ⟨-, -, h⟩ | ⟨-, -, h⟩ := s.blockVerdict_cases valid bs <;> simp [h]
  have padAdd : s.padAddVerdict ≠ .fault .illegalCommand := by
    obtain ⟨-, h⟩ | ⟨-, -, h⟩ | ⟨-, -, -, -, h⟩ := s.padAddVerdict_cases <;> simp [h]
  have padRem : s.padRemVerdict ≠ .fault .illegalCommand := by
    obtain ⟨-, h⟩ | ⟨-, -, h⟩ | ⟨-, -, h⟩ := s.padRemVerdict_cases <;> simp [h]
  cases i with
  | kuzSetkey | magSetkey | magSetkeyStd => exact setkey
  | kuzEnc | kuzDec => exact block s.kv 16
  | magEnc | magEncStd | magDec | magDecStd => exact block s.mv 8
  | padAdd => exact padAdd
  | padRem => exact padRem
  | _ => exact Verdict.noConfusion

/-- What a command whose checks pass does to `DMEM`: nothing, or it stores its `storedLen` bytes at
the destination, inside `DMEM` (R55). -/
theorem effectOf_dmem_cases {i : Instr} (hv : verdictOf s i = .ok) :
    (effectOf s i).dmem = s.dmem ∨ ∃ v : List Byte, v.length = s.storedLen i ∧
      s.dstAddr + v.length ≤ s.cfg.dmemSize ∧
      (effectOf s i).dmem = (s.memWrite s.dstAddr v).dmem := by
  have block {valid : Bool} {n : Nat} {b : Bytes n} (h : s.blockVerdict valid n = .ok)
      (hlen : s.storedLen i = n)
      (hb : (effectOf s i).dmem = (s.memWrite s.dstAddr b.toList).dmem) :
      ∃ v : List Byte, v.length = s.storedLen i ∧ s.dstAddr + v.length ≤ s.cfg.dmemSize ∧
        (effectOf s i).dmem = (s.memWrite s.dstAddr v).dmem := by
    obtain ⟨-, -, hcap, -, hdst⟩ := State.blockVerdict_eq_ok h
    refine ⟨_, ?_, ?_, hb⟩ <;> rw [Vector.length_toList]
    · exact hlen.symm
    · omega
  cases i with
  | kuzEnc | kuzDec | magEnc | magEncStd | magDec | magDecStd => exact .inr (block hv rfl rfl)
  | padAdd =>
    obtain ⟨hbs, hcap, hdst⟩ := State.padAddVerdict_eq_ok hv
    have hlen : (addPadding s.padData s.padBs).length = s.paddedLen := by
      rw [length_addPadding _ (Nat.one_le_iff_ne_zero.mpr hbs), State.padData, s.length_memRead,
        State.paddedLen]
    exact .inr ⟨_, hlen, by omega, rfl⟩
  | _ => exact .inl rfl

end

/-! ### One host action -/

/-- What a host action does to the core, action by action (R80): `HostEffect s r t` when the action
`r` takes `s`, in which it has been taken off the script, to `t`. -/
inductive HostEffect (s : State) : HostRequest → State → Prop where
  /-- A write of an operand register stores the value (R21). -/
  | x0 (v : Word) : HostEffect s (.wr .x0 v) { s with x0 := v }
  | x1 (v : Word) : HostEffect s (.wr .x1 v) { s with x1 := v }
  | x2 (v : Word) : HostEffect s (.wr .x2 v) { s with x2 := v }
  | x3 (v : Word) : HostEffect s (.wr .x3 v) { s with x3 := v }
  | x4 (v : Word) : HostEffect s (.wr .x4 v) { s with x4 := v }
  /-- A write of a read-only register is ignored (R34). -/
  | readOnly (r : HostReg) (v : Word) (hr : r ∈ [HostReg.x5, .status, .err, .fault, .finfo]) :
    HostEffect s (.wr r v) s
  /-- In the faulted state a command word is ignored (R231). -/
  | ignored (w : Word) (hs : s.fault ≠ 0#32) : HostEffect s (.wr .cmd w) s
  /-- An illegal word raises its fault (R225). -/
  | illegal (w : Word) (hs : s.Live) : HostEffect s (.wr .cmd w) (s.raiseFault .illegalCommand w)
  /-- A legal word runs its command (R200). -/
  | command (i : Instr) (t : State) (hs : s.Live) (he : exec i s = .next t) :
    HostEffect s (.wr .cmd (encode i)) t
  | rd (r : HostReg) : HostEffect s (.rd r) (s.reply (.word (s.readReg r)))
  | mw (a : Nat) (bs : List Byte) (hin : a + bs.length ≤ s.cfg.dmemSize) :
    HostEffect s (.mw a bs) (s.memWrite a bs)
  | mr (a n : Nat) : HostEffect s (.mr a n) (s.reply (.bytes (s.memRead a n)))
  | reset : HostEffect s .reset s.hostReset

section
variable {s t : State} {r : HostRequest}

/-- A command word takes effect as `HostEffect` lists it. -/
theorem hostEffect_of_executeWord {w : Word} (h : executeWord w s = .next t) :
    HostEffect s (.wr .cmd w) t := by
  obtain ⟨hs, he⟩ | ⟨hs, -, he⟩ | ⟨hs, i, hd, he⟩ := executeWord_cases w s
  · rw [he] at h; cases h; exact .ignored w hs
  · rw [he] at h; cases h; exact .illegal w hs
  · rw [he] at h; exact encode_of_decode hd ▸ .command i t hs h

/-- `HostEffect` lists everything a host action can do (R80). -/
theorem hostEffect_of_hostAction {a : HostAction s.cfg.dmemSize} (h : hostAction s a = .next t) :
    HostEffect s a.val t := by
  obtain ⟨r, hr⟩ := a
  cases r with
  | wr g v =>
    cases g with
    | cmd => exact hostEffect_of_executeWord h
    | x0 => cases h; exact .x0 v
    | x1 => cases h; exact .x1 v
    | x2 => cases h; exact .x2 v
    | x3 => cases h; exact .x3 v
    | x4 => cases h; exact .x4 v
    | x5 | status | err | fault | finfo => cases h; exact .readOnly _ v (by decide)
  | rd g => cases h; exact .rd g
  | mw a bs => cases h; exact .mw a bs (of_decide_eq_true hr)
  | mr a n => cases h; exact .mr a n
  | reset => cases h; exact .reset

/-- Everything a step to a next state can do: nothing with no action to come, else the effect of the
action, which has been taken off the script (R33, R59). -/
theorem step_next_cases (h : step s = .next t) :
    (s.script = [] ∧ t = s) ∨
    ∃ (r : HostRequest) (rest : List HostRequest),
      s.script = r :: rest ∧ HostEffect (s.advance rest) r t := by
  obtain ⟨hs, he⟩ | ⟨r, rest, hr, hs, he⟩ | ⟨r, rest, -, -, he⟩ := step_cases s
  all_goals rw [he] at h
  · cases h; exact .inl ⟨hs, rfl⟩
  · exact .inr ⟨r, rest, hs, hostEffect_of_hostAction h⟩
  · cases h

/-- No host action changes the parameters, the script or the index further than `advance` did. -/
theorem HostEffect.frame (h : HostEffect s r t) :
    t.cfg = s.cfg ∧ t.script = s.script ∧ t.index = s.index := by
  cases h with
  | command i t hs he =>
    rw [exec_frame he]
    exact ⟨rfl, rfl, rfl⟩
  | _ => exact ⟨rfl, rfl, rfl⟩

end

end Sys2Proof.Machine
end

section
/-! What every step keeps (spec/10_state.md R21 to R36, spec/60_exceptions.md R231, R233): the index
and the script, the parameters, the registers and contexts by their writers, and the invariant of
the machine. -/

namespace Sys2Proof.Machine

/-! ### The host's position and the parameters (R30, R33) -/

section
variable {s t : State}

theorem step_cfg (h : step s = .next t) : t.cfg = s.cfg := by
  obtain ⟨-, rfl⟩ | ⟨r, rest, -, he⟩ := step_next_cases h
  · rfl
  · obtain ⟨hcfg, -, -⟩ := he.frame
    exact hcfg

theorem step_script (h : step s = .next t) : t.script = s.script.tail := by
  obtain ⟨hs, rfl⟩ | ⟨r, rest, hs, he⟩ := step_next_cases h
  · rw [hs, List.tail_nil]
  · obtain ⟨-, hscript, -⟩ := he.frame
    rw [hscript, hs, List.tail_cons, State.advance_script]

theorem step_index (h : step s = .next t) (hs : s.script ≠ []) : t.index = s.index + 1 := by
  obtain ⟨hnil, -⟩ | ⟨r, rest, -, he⟩ := step_next_cases h
  · exact absurd hnil hs
  · obtain ⟨-, -, hindex⟩ := he.frame
    exact hindex

/-- With no action to come a step changes nothing (R33, R234). -/
theorem step_idle (h : step s = .next t) (hs : s.script = []) : t = s := by
  obtain ⟨-, rfl⟩ | ⟨r, rest, hcons, -⟩ := step_next_cases h
  · rfl
  · rw [hs] at hcons; cases hcons

end

/-- Settles O12: `step_idle`, `step_index` and `step_script`. -/
theorem indexAdvancesByOne : Obligations.IndexAdvancesByOne :=
  ⟨rfl, fun _ _ h => ⟨step_idle h, fun hs => ⟨step_index h hs, step_script h⟩⟩⟩

/-- Settles O18: `step_cfg`. -/
theorem tablesNeverChange : Obligations.TablesNeverChange := fun _ _ => step_cfg

/-! ### Progress inside the interface (R80) -/

section
variable {s t : State}

/-- A step with a legal script gives a state: every host action does. -/
theorem exists_step_next (hs : s.ScriptLegal) : ∃ t, step s = .next t := by
  obtain ⟨-, he⟩ | ⟨r, rest, hr, -, he⟩ | ⟨r, rest, hscript, hout, -⟩ := step_cases s
  · exact ⟨s, he⟩
  · rw [he]; exact hostAction_next _ _
  · have hin : r.inInterface s.cfg.dmemSize = true := hs r (hscript ▸ List.mem_cons_self)
    rw [hout] at hin; cases hin

/-- A run that starts with a step to a state goes on from there. -/
theorem core_run_succ (h : step s = .next t) (n : Nat) : core.run (n + 1) s = core.run n t := by
  have hcore : core.step s = .next t := h
  simp only [Host.Core.run, hcore]

/-- A step leaves of a legal script its rest, with the same parameters. -/
theorem step_scriptLegal (hs : s.ScriptLegal) (h : step s = .next t) : t.ScriptLegal := by
  intro r hr
  rw [step_script h] at hr
  rw [step_cfg h]
  exact hs r (List.mem_of_mem_tail hr)

end

/-- Settles O13: by induction on the number of steps, each of which gives a state
(`exists_step_next`) whose script is legal again (`step_scriptLegal`). -/
theorem runInsideInterfaceNeverStops : Obligations.RunInsideInterfaceNeverStops := by
  intro n
  induction n with
  | zero => exact fun s hs => ⟨s, rfl, hs⟩
  | succ n ih =>
    intro s hs
    obtain ⟨u, hu⟩ := exists_step_next hs
    obtain ⟨t, ht, hlegal⟩ := ih u (step_scriptLegal hs hu)
    exact ⟨t, (core_run_succ hu n).trans ht, hlegal⟩

/-! ### The outcomes of a command (R233) -/

theorem ErrorName.code_mem (e : ErrorName) : e.code ∈ [1#32, 2#32] := by
  cases e <;> decide

theorem FaultName.code_mem {f : FaultName} (h : f ≠ .illegalCommand) :
    f.code ∈ [2#32, 3#32, 4#32] := by
  cases f with
  | illegalCommand => exact absurd rfl h
  | _ => decide

/-- Settles O14: the cases of `exec_next_cases`, with the codes of the error and the fault. -/
theorem commandOutcomesPrecise : Obligations.CommandOutcomesPrecise := by
  intro i s hs
  obtain ⟨t, ht⟩ := exec_next i s
  refine ⟨t, ht, ?_⟩
  obtain ⟨hf, -⟩ | ⟨-, -, rfl⟩ | ⟨-, e, -, rfl⟩ | ⟨-, f, hv, rfl⟩ := exec_next_cases ht
  · exact absurd hs hf
  · exact .inl ⟨rfl, (effectOf_fault s i).trans hs, effectOf_finfo s i⟩
  · exact .inr (.inl ⟨e.code, e.code_mem, rfl⟩)
  · have hne : f ≠ .illegalCommand := by
      rintro rfl
      exact verdictOf_ne_illegalCommand s i hv
    exact .inr (.inr ⟨f.code, FaultName.code_mem hne, rfl⟩)

/-! ### The faulted state (R231) -/

/-- In the faulted state only `RESET` changes the status registers and the contexts. -/
theorem step_faulted_frame {s t : State} (hf : s.fault ≠ 0) (h : step s = .next t)
    (hr : ∀ rest, s.script ≠ .reset :: rest) :
    t.fault = s.fault ∧ t.finfo = s.finfo ∧ t.err = s.err ∧ t.kv = s.kv ∧ t.mv = s.mv ∧
      t.kuzRk = s.kuzRk ∧ t.magK = s.magK := by
  obtain ⟨-, rfl⟩ | ⟨r, rest, hs, he⟩ := step_next_cases h
  · exact ⟨rfl, rfl, rfl, rfl, rfl, rfl, rfl⟩
  · cases he with
    | illegal w hlive => exact absurd hlive hf
    | command i t hlive he => exact absurd hlive hf
    | reset => exact absurd hs (hr rest)
    | _ => exact ⟨rfl, rfl, rfl, rfl, rfl, rfl, rfl⟩

/-- Settles O15: the rules of the single actions, of which only that of a command word reads
`FAULT`, and `step_faulted_frame`. -/
theorem faultedStateIgnoresCommands : Obligations.FaultedStateIgnoresCommands := by
  intro s hf
  refine ⟨exec_faulted hf, fun rest => ⟨fun w h => ?cmd, fun v => step_wr, fun v => step_wr,
    fun v => step_wr, fun v => step_wr, fun v => step_wr, fun r => step_rd,
    fun a bs => step_mw_stores, fun a n => step_mr_returns,
    fun h => ⟨_, step_reset h, rfl, rfl, rfl⟩⟩, fun t => step_faulted_frame hf⟩
  case cmd =>
    rw [step_wr h]
    exact executeWord_faulted (s := s.advance rest) hf w

/-! ### The operand registers (R21) -/

/-- Settles O19: each action by `HostEffect`; a command leaves all five registers alone
(`exec_frame`). -/
theorem operandRegistersBelongToHost : Obligations.OperandRegistersBelongToHost := by
  intro s t h
  obtain ⟨-, rfl⟩ | ⟨r, rest, hs, he⟩ := step_next_cases h
  · exact ⟨.inl rfl, .inl rfl, .inl rfl, .inl rfl, .inl rfl⟩
  · cases he with
    | x0 v => exact ⟨.inr (.inl ⟨rest, hs⟩), .inl rfl, .inl rfl, .inl rfl, .inl rfl⟩
    | x1 v => exact ⟨.inl rfl, .inr (.inl ⟨rest, hs⟩), .inl rfl, .inl rfl, .inl rfl⟩
    | x2 v => exact ⟨.inl rfl, .inl rfl, .inr (.inl ⟨rest, hs⟩), .inl rfl, .inl rfl⟩
    | x3 v => exact ⟨.inl rfl, .inl rfl, .inl rfl, .inr (.inl ⟨rest, hs⟩), .inl rfl⟩
    | x4 v => exact ⟨.inl rfl, .inl rfl, .inl rfl, .inl rfl, .inr (.inl ⟨rest, hs⟩)⟩
    | command i t hlive he =>
      rw [exec_frame he]
      exact ⟨.inl rfl, .inl rfl, .inl rfl, .inl rfl, .inl rfl⟩
    | reset =>
      have zero : ∃ l, s.script = .reset :: l ∧ (0 : Word) = 0 := ⟨rest, hs, rfl⟩
      exact ⟨.inr (.inr zero), .inr (.inr zero), .inr (.inr zero), .inr (.inr zero),
        .inr (.inr zero)⟩
    | _ => exact ⟨.inl rfl, .inl rfl, .inl rfl, .inl rfl, .inl rfl⟩

/-! ### The contexts and the result register, by their writers (R22, R27, R28) -/

section
variable {i : Instr} {s t : State}

/-- Only an ok `KUZ.SETKEY` writes the Kuznyechik context, and then all of it (R27). -/
theorem exec_kuzContext (h : exec i s = .next t) :
    (t.kuzRk = s.kuzRk ∧ t.kv = s.kv) ∨
    (i = .kuzSetkey ∧ s.srcLen = 32 ∧ t.err = 0 ∧ t.kv = true ∧
      t.kuzRk = kuzSchedule s.cfg s.readKey) := by
  obtain ⟨-, rfl⟩ | ⟨-, hv, rfl⟩ | ⟨-, e, -, rfl⟩ | ⟨-, f, -, rfl⟩ := exec_next_cases h
  case inr.inl =>
    cases i with
    | kuzSetkey =>
      obtain ⟨hlen, -⟩ := State.setkeyVerdict_eq_ok hv
      exact .inr ⟨rfl, hlen, rfl, rfl, rfl⟩
    | _ => exact .inl ⟨rfl, rfl⟩
  all_goals exact .inl ⟨rfl, rfl⟩

/-- Only an ok `MAG.SETKEY` or `MAG.SETKEY.STD` writes the Magma context, and then all of it
(R28). -/
theorem exec_magContext (h : exec i s = .next t) :
    (t.magK = s.magK ∧ t.mv = s.mv) ∨
    (i = .magSetkey ∧ s.srcLen = 32 ∧ t.err = 0 ∧ t.mv = true ∧ t.magK = magKeyWords s.readKey) ∨
    (i = .magSetkeyStd ∧ s.srcLen = 32 ∧ t.err = 0 ∧ t.mv = true ∧
      t.magK = magKeyWords (wordrev s.readKey)) := by
  obtain ⟨-, rfl⟩ | ⟨-, hv, rfl⟩ | ⟨-, e, -, rfl⟩ | ⟨-, f, -, rfl⟩ := exec_next_cases h
  case inr.inl =>
    cases i with
    | magSetkey =>
      obtain ⟨hlen, -⟩ := State.setkeyVerdict_eq_ok hv
      exact .inr (.inl ⟨rfl, hlen, rfl, rfl, rfl⟩)
    | magSetkeyStd =>
      obtain ⟨hlen, -⟩ := State.setkeyVerdict_eq_ok hv
      exact .inr (.inr ⟨rfl, hlen, rfl, rfl, rfl⟩)
    | _ => exact .inl ⟨rfl, rfl⟩
  all_goals exact .inl ⟨rfl, rfl⟩

/-- Only an ok command with a numeric result writes `x[5]` (R22). -/
theorem exec_x5 (hs : s.Live) (h : exec i s = .next t) :
    t.x5 = s.x5 ∨ (i.hasResult = true ∧ t.err = 0 ∧ t.fault = 0) := by
  obtain ⟨-, rfl⟩ | ⟨-, -, rfl⟩ | ⟨-, e, -, rfl⟩ | ⟨-, f, -, rfl⟩ := exec_next_cases h
  case inr.inl =>
    by_cases hr : i.hasResult = true
    · exact .inr ⟨hr, rfl, (effectOf_fault s i).trans hs⟩
    · cases i with
      | kuzSetkey | magSetkey | magSetkeyStd => exact .inl rfl
      | kuzEnc | kuzDec | magEnc | magEncStd | magDec | magDecStd => exact .inl rfl
      | _ => exact absurd rfl hr
  all_goals exact .inl rfl

end

/-- Settles O20: `exec_kuzContext` for a command; no other action but `RESET` touches the
context. -/
theorem kuzContextWrittenBySetkeyOnly : Obligations.KuzContextWrittenBySetkeyOnly := by
  intro s t h hne
  have unchanged : ¬ (t.kuzRk = s.kuzRk ∧ t.kv = s.kv) := not_and_or.mpr hne
  obtain ⟨-, rfl⟩ | ⟨r, rest, hs, he⟩ := step_next_cases h
  · exact absurd ⟨rfl, rfl⟩ unchanged
  · cases he with
    | reset => exact .inl ⟨rest, hs, rfl⟩
    | command i t hlive he =>
      obtain hsame | ⟨rfl, hset⟩ := exec_kuzContext he
      · exact absurd hsame unchanged
      · exact .inr ⟨rest, hs, hset⟩
    | _ => exact absurd ⟨rfl, rfl⟩ unchanged

/-- Settles O21: `exec_magContext` for a command; no other action but `RESET` touches the
context. -/
theorem magContextWrittenBySetkeyOnly : Obligations.MagContextWrittenBySetkeyOnly := by
  intro s t h hne
  have unchanged : ¬ (t.magK = s.magK ∧ t.mv = s.mv) := not_and_or.mpr hne
  obtain ⟨-, rfl⟩ | ⟨r, rest, hs, he⟩ := step_next_cases h
  · exact absurd ⟨rfl, rfl⟩ unchanged
  · cases he with
    | reset => exact .inl ⟨rest, hs, rfl⟩
    | command i t hlive he =>
      obtain hsame | ⟨rfl, hset⟩ | ⟨rfl, hset⟩ := exec_magContext he
      · exact absurd hsame unchanged
      · exact .inr (.inl ⟨rest, hs, hset⟩)
      · exact .inr (.inr ⟨rest, hs, hset⟩)
    | _ => exact absurd ⟨rfl, rfl⟩ unchanged

/-- Settles O22: `exec_x5` for a command; no other action but `RESET` touches `x[5]`. -/
theorem resultWrittenOnOkOnly : Obligations.ResultWrittenOnOkOnly := by
  intro s t h hne
  obtain ⟨-, rfl⟩ | ⟨r, rest, hs, he⟩ := step_next_cases h
  · exact absurd rfl hne
  · cases he with
    | reset => exact .inl ⟨rest, hs, rfl⟩
    | command i t hlive he =>
      obtain hsame | hres := exec_x5 hlive he
      · exact absurd hsame hne
      · exact .inr ⟨i, rest, hs, hres⟩
    | _ => exact absurd rfl hne

/-! ### `DMEM` (R50, R55) -/

section
variable {i : Instr} {s t : State}

/-- What a command can do to `DMEM`: nothing, or it stores its `storedLen` bytes at the destination,
inside `DMEM`. -/
theorem exec_dmem_cases (h : exec i s = .next t) :
    t.dmem = s.dmem ∨ ∃ v : List Byte, v.length = s.storedLen i ∧
      s.dstAddr + v.length ≤ s.cfg.dmemSize ∧ t.dmem = (s.memWrite s.dstAddr v).dmem := by
  obtain ⟨-, rfl⟩ | ⟨-, hv, rfl⟩ | ⟨-, e, -, rfl⟩ | ⟨-, f, -, rfl⟩ := exec_next_cases h
  case inr.inl => exact effectOf_dmem_cases hv
  all_goals exact .inl rfl

theorem exec_resets (h : exec i s = .next t) : t.resets = s.resets := by
  rw [exec_frame h]

theorem exec_cfg (h : exec i s = .next t) : t.cfg = s.cfg := by
  rw [exec_frame h]

end

/-- Settles O23: the bytes outside the stored window, by `exec_dmem_cases`. -/
theorem commandDmemFrame : Obligations.CommandDmemFrame := by
  intro i s t h a ha
  have hr := exec_resets h
  obtain hd | ⟨v, hlen, -, hd⟩ := exec_dmem_cases h
  · exact congrFun (State.byteAt_congr hd hr) a
  · rw [State.byteAt_congr (t := s.memWrite s.dstAddr v) hd hr]
    exact s.byteAt_memWrite_outside _ v a (hlen ▸ ha)

/-! ### The invariant of the machine -/

theorem State.dmemLegal_congr {s t : State} (hd : t.dmem = s.dmem) (hc : t.cfg = s.cfg) :
    t.dmemLegal = s.dmemLegal := by
  rw [State.dmemLegal, State.dmemLegal, hd, hc]

/-- The listed values of the status registers, one by one (R25, R26). -/
theorem State.statusLegal_iff (s : State) : s.statusLegal = true ↔
    s.err ≤ 2#32 ∧ s.fault ≤ 4#32 ∧ (s.fault ≠ 0#32 ∨ s.finfo = 0#32) := by
  simp [State.statusLegal, and_assoc]

section
variable {i : Instr} {s t : State} {r : HostRequest}

theorem ErrorName.code_le (e : ErrorName) : e.code ≤ 2#32 := by
  cases e <;> decide

theorem FaultName.code_le (f : FaultName) : f.code ≤ 4#32 := by
  cases f <;> decide

theorem FaultName.code_ne_zero (f : FaultName) : f.code ≠ 0#32 := by
  cases f <;> decide

theorem State.raiseFault_statusLegal (hs : s.statusLegal = true) (f : FaultName) (w : Word) :
    (s.raiseFault f w).statusLegal = true := by
  obtain ⟨herr, -, -⟩ := s.statusLegal_iff.mp hs
  exact (State.statusLegal_iff _).mpr ⟨herr, f.code_le, .inl f.code_ne_zero⟩

theorem exec_statusLegal (hs : s.statusLegal = true) (h : exec i s = .next t) :
    t.statusLegal = true := by
  obtain ⟨herr, hfault, hfinfo⟩ := s.statusLegal_iff.mp hs
  obtain ⟨-, rfl⟩ | ⟨-, -, rfl⟩ | ⟨-, e, -, rfl⟩ | ⟨-, f, -, rfl⟩ := exec_next_cases h
  · exact hs
  · rw [State.statusLegal_iff]
    simp only [effectOf_fault, effectOf_finfo]
    exact ⟨by decide, hfault, hfinfo⟩
  · exact (State.statusLegal_iff _).mpr ⟨e.code_le, hfault, hfinfo⟩
  · exact State.raiseFault_statusLegal hs f _

theorem HostEffect.statusLegal (h : HostEffect s r t) (hs : s.statusLegal = true) :
    t.statusLegal = true := by
  cases h with
  | illegal w hlive => exact State.raiseFault_statusLegal hs _ w
  | command i t hlive he => exact exec_statusLegal hs he
  | reset => rfl
  | _ => exact hs

theorem exec_dmemLegal (hs : s.dmemLegal = true) (h : exec i s = .next t) : t.dmemLegal = true := by
  have hc := exec_cfg h
  obtain hd | ⟨v, -, hin, hd⟩ := exec_dmem_cases h
  · rwa [State.dmemLegal_congr hd hc]
  · rw [State.dmemLegal_congr (s := s.memWrite s.dstAddr v) hd hc]
    exact State.memWrite_dmemLegal hs _ v hin

theorem HostEffect.dmemLegal (h : HostEffect s r t) (hs : s.dmemLegal = true) :
    t.dmemLegal = true := by
  cases h with
  | command i t hlive he => exact exec_dmemLegal hs he
  | mw a bs hin => exact State.memWrite_dmemLegal hs a bs hin
  | reset => exact s.hostReset_dmemLegal
  | _ => exact hs

end

/-- Settles O17: the parameters by `step_cfg`, `DMEM` and the status registers action by action. -/
theorem stepKeepsInvariant : Obligations.StepKeepsInvariant := by
  intro s t hinv h
  obtain ⟨hcfg, hdmem, hstatus⟩ := hinv
  refine ⟨by rw [step_cfg h]; exact hcfg, ?_⟩
  obtain ⟨-, rfl⟩ | ⟨r, rest, -, he⟩ := step_next_cases h
  · exact ⟨hdmem, hstatus⟩
  · exact ⟨he.dmemLegal hdmem, he.statusLegal hstatus⟩

/-- The default `PI` is a permutation (R104). -/
theorem defaultConfig_piOk : defaultConfig.piOk = true := by decide +kernel

theorem defaultConfig_wellFormed : defaultConfig.wellFormed = true := by
  rw [Config.wellFormed, defaultConfig_piOk, Bool.and_true]
  decide

/-- Settles O16: the default configuration is legal; nothing is written in `DMEM`, and the status
registers are 0. -/
theorem invariantAtReset : Obligations.InvariantAtReset :=
  ⟨defaultConfig_wellFormed, State.reset_dmemLegal, rfl⟩

end Sys2Proof.Machine
end

section
/-! What a step cannot see: a key bank whose valid bit is 0 (spec/10_state.md R35), and for the
commands of one cipher the context of the other (R29). -/

namespace Sys2Proof.Machine

/-! ### Banks whose valid bit is 0 -/

/-- The state with other contents of the two banks. -/
def State.withBanks (s : State) (rk : KuzBank) (k : MagBank) : State :=
  { s with kuzRk := rk, magK := k }

section
variable {s u t : State} {i : Instr}

/-- States that differ at most in invalid banks, by the second one's banks. -/
theorem sameButInvalidBanks_iff : SameButInvalidBanks s u ↔
    ∃ rk k, u = s.withBanks rk k ∧ (s.kv = true → rk = s.kuzRk) ∧ (s.mv = true → k = s.magK) := by
  constructor
  · rintro ⟨hu, hk, hm⟩
    exact ⟨u.kuzRk, u.magK, hu, hk, hm⟩
  · rintro ⟨rk, k, rfl, hk, hm⟩
    exact ⟨rfl, hk, hm⟩

/-- An update that writes neither a bank nor a valid bit keeps the relation. -/
theorem SameButInvalidBanks.map {f : State → State} (h : SameButInvalidBanks s u)
    (hf : ∀ s rk k, f (s.withBanks rk k) = (f s).withBanks rk k)
    (hkeeps : ∀ s, (f s).kv = s.kv ∧ (f s).mv = s.mv ∧ (f s).kuzRk = s.kuzRk ∧
      (f s).magK = s.magK) : SameButInvalidBanks (f s) (f u) := by
  obtain ⟨rk, k, rfl, hk, hm⟩ := sameButInvalidBanks_iff.mp h
  obtain ⟨hkv, hmv, hrk, hmagK⟩ := hkeeps s
  rw [hf]
  exact ⟨rfl, fun hv => (hk (hkv ▸ hv)).trans hrk.symm, fun hv => (hm (hmv ▸ hv)).trans hmagK.symm⟩

/-- The checks of a command read no bank (R201, R202). -/
theorem SameButInvalidBanks.verdictOf_eq (h : SameButInvalidBanks s u) (i : Instr) :
    verdictOf u i = verdictOf s i := by
  obtain ⟨rk, k, rfl, -⟩ := sameButInvalidBanks_iff.mp h
  cases i <;> rfl

theorem SameButInvalidBanks.fault_eq (h : SameButInvalidBanks s u) : u.fault = s.fault := by
  obtain ⟨rk, k, rfl, -⟩ := sameButInvalidBanks_iff.mp h
  rfl

/-- The effect of a command whose checks pass reads a bank only where its valid bit is 1 (R35). -/
theorem SameButInvalidBanks.effectOf (h : SameButInvalidBanks s u) (hv : verdictOf s i = .ok) :
    SameButInvalidBanks (effectOf s i) (effectOf u i) := by
  obtain ⟨rk, k, rfl, hk, hm⟩ := sameButInvalidBanks_iff.mp h
  cases i with
  | kuzEnc | kuzDec =>
    obtain ⟨hkv, -⟩ := State.blockVerdict_eq_ok hv
    obtain rfl := hk hkv
    exact ⟨rfl, fun _ => rfl, hm⟩
  | magEnc | magEncStd | magDec | magDecStd =>
    obtain ⟨hmv, -⟩ := State.blockVerdict_eq_ok hv
    obtain rfl := hm hmv
    exact ⟨rfl, hk, fun _ => rfl⟩
  | kuzSetkey => exact ⟨rfl, fun _ => rfl, hm⟩
  | magSetkey | magSetkeyStd => exact ⟨rfl, hk, fun _ => rfl⟩
  | _ => exact ⟨rfl, hk, hm⟩

theorem SameButInvalidBanks.exec (h : SameButInvalidBanks s u) (he : exec i s = .next t) :
    ∃ v, exec i u = .next v ∧ SameButInvalidBanks t v := by
  have hverdict := h.verdictOf_eq i
  have hfault := h.fault_eq
  obtain ⟨hs, rfl⟩ | ⟨hs, hv, rfl⟩ | ⟨hs, e, hv, rfl⟩ | ⟨hs, f, hv, rfl⟩ := exec_next_cases he
  · exact ⟨u, exec_faulted (hfault ▸ hs) i, h⟩
  · exact ⟨_, exec_ok (hfault.trans hs) (hverdict.trans hv),
      (h.effectOf hv).map (f := fun s => { s with err := 0 }) (fun _ _ _ => rfl)
        fun _ => ⟨rfl, rfl, rfl, rfl⟩⟩
  · exact ⟨_, exec_error (hfault.trans hs) (hverdict.trans hv),
      h.map (f := fun s => s.reportError e) (fun _ _ _ => rfl) fun _ => ⟨rfl, rfl, rfl, rfl⟩⟩
  · exact ⟨_, exec_fault (hfault.trans hs) (hverdict.trans hv),
      h.map (f := fun s => s.raiseFault f (encode i)) (fun _ _ _ => rfl)
        fun _ => ⟨rfl, rfl, rfl, rfl⟩⟩

theorem SameButInvalidBanks.executeWord {w : Word} (h : SameButInvalidBanks s u)
    (he : executeWord w s = .next t) :
    ∃ v, executeWord w u = .next v ∧ SameButInvalidBanks t v := by
  cases hd : decode w with
  | ok i =>
    rw [executeWord_of_decode hd] at he ⊢
    exact h.exec he
  | error r =>
    have hfault := h.fault_eq
    obtain ⟨hs, hw⟩ | ⟨hs, -, hw⟩ | ⟨-, i, hi, -⟩ := executeWord_cases w s
    · rw [hw] at he
      cases he
      exact ⟨u, executeWord_faulted (hfault ▸ hs) w, h⟩
    · rw [hw] at he
      cases he
      refine ⟨u.raiseFault .illegalCommand w, ?_,
        h.map (f := fun s => s.raiseFault .illegalCommand w) (fun _ _ _ => rfl)
          fun _ => ⟨rfl, rfl, rfl, rfl⟩⟩
      have hu := (State.faulted_eq_false_iff u).mpr (hfault.trans hs)
      simp [Machine.executeWord, hu, hd]
    · rw [hd] at hi; cases hi

/-- No register shows a bank (R27, R28, R34). -/
theorem State.readReg_withBanks (s : State) (rk : KuzBank) (k : MagBank) (r : HostReg) :
    (s.withBanks rk k).readReg r = s.readReg r := by
  cases r <;> rfl

/-- Two outcomes that update both states alike. -/
theorem SameButInvalidBanks.next_map {f : State → State} {x y : Result}
    (h : SameButInvalidBanks s u) (hs : x = .next (f s)) (hu : y = .next (f u))
    (hf : ∀ s rk k, f (s.withBanks rk k) = (f s).withBanks rk k)
    (hkeeps : ∀ s, (f s).kv = s.kv ∧ (f s).mv = s.mv ∧ (f s).kuzRk = s.kuzRk ∧
      (f s).magK = s.magK) (ht : x = .next t) : ∃ v, y = .next v ∧ SameButInvalidBanks t v := by
  rw [hs] at ht
  cases ht
  exact ⟨f u, hu, h.map hf hkeeps⟩

/-- A host action has the same effect on both states, and `RESET` gives both the same banks. -/
theorem SameButInvalidBanks.hostAction {r : HostRequest} (h : SameButInvalidBanks s u)
    (hr : r.inInterface s.cfg.dmemSize = true) (hr' : r.inInterface u.cfg.dmemSize = true)
    (he : hostAction s ⟨r, hr⟩ = .next t) :
    ∃ v, hostAction u ⟨r, hr'⟩ = .next v ∧ SameButInvalidBanks t v := by
  have kept : ∀ s : State, s.kv = s.kv ∧ s.mv = s.mv ∧ s.kuzRk = s.kuzRk ∧ s.magK = s.magK :=
    fun _ => ⟨rfl, rfl, rfl, rfl⟩
  cases r with
  | wr g v =>
    cases g with
    | cmd => exact h.executeWord he
    | x0 => exact h.next_map (f := fun s => { s with x0 := v }) rfl rfl (fun _ _ _ => rfl) kept he
    | x1 => exact h.next_map (f := fun s => { s with x1 := v }) rfl rfl (fun _ _ _ => rfl) kept he
    | x2 => exact h.next_map (f := fun s => { s with x2 := v }) rfl rfl (fun _ _ _ => rfl) kept he
    | x3 => exact h.next_map (f := fun s => { s with x3 := v }) rfl rfl (fun _ _ _ => rfl) kept he
    | x4 => exact h.next_map (f := fun s => { s with x4 := v }) rfl rfl (fun _ _ _ => rfl) kept he
    | x5 | status | err | fault | finfo =>
      exact h.next_map (f := id) rfl rfl (fun _ _ _ => rfl) kept he
  | rd g =>
    exact h.next_map (f := fun s => s.reply (.word (s.readReg g))) rfl rfl
      (fun s rk k => congrArg (fun v => (s.withBanks rk k).reply (.word v))
        (s.readReg_withBanks rk k g)) kept he
  | mw a bs => exact h.next_map (f := fun s => s.memWrite a bs) rfl rfl (fun _ _ _ => rfl) kept he
  | mr a n =>
    exact h.next_map (f := fun s => s.reply (.bytes (s.memRead a n))) rfl rfl (fun _ _ _ => rfl)
      kept he
  | reset =>
    cases he
    obtain ⟨rk, k, rfl, -⟩ := sameButInvalidBanks_iff.mp h
    exact ⟨_, rfl, rfl, fun _ => rfl, fun _ => rfl⟩

theorem SameButInvalidBanks.script_eq (h : SameButInvalidBanks s u) : u.script = s.script := by
  obtain ⟨rk, k, rfl, -⟩ := sameButInvalidBanks_iff.mp h
  rfl

theorem SameButInvalidBanks.cfg_eq (h : SameButInvalidBanks s u) : u.cfg = s.cfg := by
  obtain ⟨rk, k, rfl, -⟩ := sameButInvalidBanks_iff.mp h
  rfl

theorem SameButInvalidBanks.advance (h : SameButInvalidBanks s u) (rest : List HostRequest) :
    SameButInvalidBanks (s.advance rest) (u.advance rest) :=
  h.map (f := fun s => s.advance rest)
    (fun s rk k => (rfl : (s.withBanks rk k).advance rest = (s.advance rest).withBanks rk k))
    fun _ => ⟨rfl, rfl, rfl, rfl⟩

end

/-- Settles O24: the two states have the same script and parameters, so they perform the same action
or refuse the same request; an action keeps the relation (`SameButInvalidBanks.hostAction`), because
a command reads a bank only where its valid bit is 1. -/
theorem invalidBanksUnobservable : Obligations.InvalidBanksUnobservable := by
  intro s u h
  have hscript := h.script_eq
  have hcfg := h.cfg_eq
  obtain ⟨hs, he⟩ | ⟨r, rest, hr, hs, he⟩ | ⟨r, rest, hs, hr, he⟩ := step_cases s
  all_goals rw [he]
  · refine ⟨fun t ht => ?_, fun r hr => nomatch hr⟩
    cases ht
    exact ⟨u, by simp [step, portStep, hscript, hs], h⟩
  · refine ⟨fun t ht => ?_, fun r' hr' => ?_⟩
    · rw [step_cons (hscript.trans hs) (hcfg ▸ hr)]
      exact (h.advance rest).hostAction hr _ ht
    · obtain ⟨t, ht⟩ := hostAction_next (s.advance rest) ⟨r, hr⟩
      rw [ht] at hr'
      cases hr'
  · refine ⟨fun t ht => (nomatch ht), fun r' hr' => ?_⟩
    cases hr'
    exact step_outside (hscript.trans hs) (hcfg ▸ hr)

/-! ### The context of the other cipher (R29) -/

/-- A command commutes with an update of the state that its checks and its effect do not read. -/
theorem command_map {i : Instr} {v : Verdict} {e s t : State} (f : State → State)
    (hfault : ∀ s, (f s).fault = s.fault)
    (herr : ∀ s c, f { s with err := c } = { f s with err := c })
    (hraise : ∀ s n w, f (State.raiseFault s n w) = (f s).raiseFault n w)
    (h : command i v e s = .next t) : command i v (f e) (f s) = .next (f t) := by
  obtain ⟨hs, hc⟩ | ⟨hs, hv, hc⟩ | ⟨hs, n, hv, hc⟩ | ⟨hs, n, hv, hc⟩ := command_cases i v e s
  all_goals
    rw [hc] at h
    cases h
  · exact command_faulted (hfault s ▸ hs) _ _ _
  · exact (command_ok ((hfault s).trans hs) i hv _).trans (congrArg _ (herr e 0).symm)
  · rw [command_error ((hfault s).trans hs) i hv]
    exact congrArg _ (herr s _).symm
  · rw [command_fault ((hfault s).trans hs) i hv, hraise]

/-- The checks and the effect of a Kuznyechik command do not read the Magma context. -/
theorem kuz_reads_no_magContext {i : Instr} (hi : i.isKuz = true) (s : State) (b : Bool)
    (k : MagBank) : verdictOf { s with mv := b, magK := k } i = verdictOf s i ∧
      effectOf { s with mv := b, magK := k } i = { effectOf s i with mv := b, magK := k } := by
  cases i with
  | kuzBlksz | kuzSetkey | kuzEnc | kuzDec => exact ⟨rfl, rfl⟩
  | _ => cases hi

/-- The checks and the effect of a Magma command do not read the Kuznyechik context. -/
theorem mag_reads_no_kuzContext {i : Instr} (hi : i.isMag = true) (s : State) (b : Bool)
    (rk : KuzBank) : verdictOf { s with kv := b, kuzRk := rk } i = verdictOf s i ∧
      effectOf { s with kv := b, kuzRk := rk } i = { effectOf s i with kv := b, kuzRk := rk } := by
  cases i with
  | magBlksz | magBlkszStd | magSetkey | magSetkeyStd => exact ⟨rfl, rfl⟩
  | magEnc | magEncStd | magDec | magDecStd => exact ⟨rfl, rfl⟩
  | _ => cases hi

/-- Settles O25: the update of the other context commutes with the command (`command_map`). -/
theorem contextsIndependent : Obligations.ContextsIndependent := by
  intro i s t h
  rw [exec_eq_command] at h
  constructor
  · intro hi b k
    obtain ⟨hv, he⟩ := kuz_reads_no_magContext hi s b k
    rw [exec_eq_command, hv, he]
    exact command_map (fun s => { s with mv := b, magK := k }) (fun _ => rfl) (fun _ _ => rfl)
      (fun _ _ _ => rfl) h
  · intro hi b rk
    obtain ⟨hv, he⟩ := mag_reads_no_kuzContext hi s b rk
    rw [exec_eq_command, hv, he]
    exact command_map (fun s => { s with kv := b, kuzRk := rk }) (fun _ => rfl) (fun _ _ => rfl)
      (fun _ _ _ => rfl) h

end Sys2Proof.Machine
end

section
/-! The commands of the cipher contract with every outcome (spec/44_contract.md R201, R202, R205 to
R207): one rule for the three `SETKEY` commands, one for the six `ENC` and `DEC` commands. -/

namespace Sys2Proof.Machine

theorem encode_magBlkszStd : encode .magBlkszStd = 0x00000501 := by decide

/-- `MAG.BLKSZ.STD` has no check that can fail (R205). -/
theorem exec_magBlkszStd {s : State} (hs : s.Live) :
    exec .magBlkszStd s = .next { s with x5 := 8, err := 0 } :=
  exec_ok (i := .magBlkszStd) hs rfl

/-- Settles O29: the rule of `MAG.BLKSZ.STD` is that of `MAG.BLKSZ`. -/
theorem wrapperBlockSizeCommand : Obligations.WrapperBlockSizeCommand :=
  ⟨encode_magBlkszStd,
    fun _ hs => ⟨exec_magBlkszStd hs, (exec_magBlkszStd hs).trans (exec_magBlksz hs).symm⟩⟩

/-! ### The `SETKEY` commands (R201) -/

section
variable {s : State}

theorem State.setkeyVerdict_keySize (hlen : s.srcLen ≠ 32) :
    s.setkeyVerdict = .error .invalidKeySize := if_pos hlen

theorem State.setkeyVerdict_bounds (hlen : s.srcLen = 32)
    (hout : s.cfg.dmemSize < s.srcAddr + 32) : s.setkeyVerdict = .fault .boundsFault := by
  obtain ⟨hne, -⟩ | ⟨-, -, hv⟩ | ⟨-, hin, -⟩ := s.setkeyVerdict_cases
  · exact absurd hlen hne
  · exact hv
  · omega

theorem State.setkeyVerdict_ok (hlen : s.srcLen = 32) (hin : s.srcAddr + 32 ≤ s.cfg.dmemSize) :
    s.setkeyVerdict = .ok := by
  obtain ⟨hne, -⟩ | ⟨-, hout, -⟩ | ⟨-, -, hv⟩ := s.setkeyVerdict_cases
  · exact absurd hlen hne
  · omega
  · exact hv

/-- A command whose checks are those of R201 follows the rule of a `SETKEY`. -/
theorem setkeyCommandRule {i : Instr} {w : Word} {load : State → State} (hw : encode i = w)
    (hv : ∀ s, verdictOf s i = s.setkeyVerdict)
    (hload : ∀ s, load s = { effectOf s i with err := 0 }) : SetkeyCommandRule i w load := by
  refine ⟨hw, fun s hs => ⟨fun hlen => ?keySize, fun hlen hout => ?bounds, fun hlen hin => ?ok⟩⟩
  case keySize => exact exec_error hs ((hv s).trans (State.setkeyVerdict_keySize hlen))
  case bounds =>
    subst hw
    exact exec_fault hs ((hv s).trans (State.setkeyVerdict_bounds hlen hout))
  case ok =>
    rw [hload]
    exact exec_ok hs ((hv s).trans (State.setkeyVerdict_ok hlen hin))

end

/-- Settles O32: `KUZ.SETKEY` is a `SETKEY` that loads the schedule of the key. -/
theorem kuzSetkeyCommand : Obligations.KuzSetkeyCommand :=
  setkeyCommandRule (by decide) (fun _ => rfl) fun _ => rfl

/-- Settles O33: both commands are a `SETKEY`; they differ in the key words they load. -/
theorem magSetkeyCommands : Obligations.MagSetkeyCommands :=
  ⟨setkeyCommandRule (by decide) (fun _ => rfl) fun _ => rfl,
    setkeyCommandRule (by decide) (fun _ => rfl) fun _ => rfl⟩

/-! ### The `ENC` and `DEC` commands (R202) -/

section
variable {s : State} {valid : Bool} {n : Nat}

theorem State.blockVerdict_keyNotLoaded (hvalid : valid = false) :
    s.blockVerdict valid n = .fault .keyNotLoaded := by
  rw [hvalid]
  rfl

theorem State.blockVerdict_bounds (hvalid : valid = true) (hfit : ¬ s.BlockBuffersFit n) :
    s.blockVerdict valid n = .fault .boundsFault := by
  obtain ⟨hno, -⟩ | ⟨-, -, hv⟩ | ⟨-, h, -⟩ := s.blockVerdict_cases valid n
  · rw [hvalid] at hno; cases hno
  · exact hv
  · exact absurd h hfit

theorem State.blockVerdict_ok (hvalid : valid = true) (hfit : s.BlockBuffersFit n) :
    s.blockVerdict valid n = .ok := by
  obtain ⟨hno, -⟩ | ⟨-, h, -⟩ | ⟨-, -, hv⟩ := s.blockVerdict_cases valid n
  · rw [hvalid] at hno; cases hno
  · exact absurd hfit h
  · exact hv

/-- A command whose checks are those of R202 and whose effect is to store a transform of the source
block follows the rule of a block command. -/
theorem blockCommandRule {i : Instr} {w : Word} {valid : State → Bool}
    {f : State → Bytes n → Bytes n} (hw : encode i = w)
    (hv : ∀ s, verdictOf s i = s.blockVerdict (valid s) n)
    (he : ∀ s, effectOf s i = s.writeBlock (f s (s.readBlock n))) :
    BlockCommandRule i w n valid f := by
  refine ⟨hw, fun s hs => ⟨fun hvalid => ?noKey, fun hvalid hfit => ?bounds,
    fun hvalid hfit => ?ok⟩⟩
  case noKey =>
    subst hw
    exact exec_fault hs ((hv s).trans (State.blockVerdict_keyNotLoaded hvalid))
  case bounds =>
    subst hw
    exact exec_fault hs ((hv s).trans (State.blockVerdict_bounds hvalid hfit))
  case ok =>
    have hexec := exec_ok hs ((hv s).trans (State.blockVerdict_ok hvalid hfit))
    rw [he] at hexec
    exact ⟨_, hexec, rfl, stores_memWrite s s.dstAddr _⟩

end

/-- Settles O34: both commands are a block command of 16 bytes under `KV`. -/
theorem kuzBlockCommands : Obligations.KuzBlockCommands :=
  ⟨blockCommandRule (by decide) (fun _ => rfl) fun _ => rfl,
    blockCommandRule (by decide) (fun _ => rfl) fun _ => rfl⟩

/-- Settles O35: the four commands are block commands of 8 bytes under `MV`; the wrapped ones store
the wrapped transforms. -/
theorem magBlockCommands : Obligations.MagBlockCommands :=
  ⟨blockCommandRule (by decide) (fun _ => rfl) fun _ => rfl,
    blockCommandRule (by decide) (fun _ => rfl) fun _ => rfl,
    blockCommandRule (by decide) (fun _ => rfl) fun _ => rfl,
    blockCommandRule (by decide) (fun _ => rfl) fun _ => rfl⟩

/-! ### What a block command stores (R207) -/

section
variable {s t u v : State} {n : Nat}

/-- Reading where a list of bytes has been stored gives the list (R51). -/
theorem Stores.memRead_eq {a : Nat} {bs : List Byte} (h : Stores s t a bs) :
    t.memRead a bs.length = bs := by
  obtain ⟨hin, -⟩ := h
  apply List.ext_getElem (t.length_memRead a _)
  intro i hi hi'
  rw [t.getElem_memRead, hin i hi']

/-- The bytes an ok block command stores, read back: the transform of the source block. -/
theorem BlockCommandRule.memRead_eq {i : Instr} {w : Word} {valid : State → Bool}
    {f : State → Bytes n → Bytes n} (hi : BlockCommandRule i w n valid f)
    (hs : s.BlockReady (valid s) n) (h : exec i s = .next t) :
    t.memRead s.dstAddr n = (f s (s.readBlock n)).toList := by
  obtain ⟨hlive, hvalid, hfit⟩ := hs
  obtain ⟨-, hrule⟩ := hi
  obtain ⟨-, -, hok⟩ := hrule s hlive
  obtain ⟨t', ht, -, hst⟩ := hok hvalid hfit
  rw [h] at ht
  cases ht
  have hread := hst.memRead_eq
  rwa [Vector.length_toList] at hread

/-- Two states in which a block command ends ok store the same bytes when the transforms of their
source blocks are the same. -/
theorem BlockCommandRule.memRead_congr {i : Instr} {w : Word} {valid : State → Bool}
    {f : State → Bytes n → Bytes n} (hi : BlockCommandRule i w n valid f)
    (hs : s.BlockReady (valid s) n) (hu : u.BlockReady (valid u) n)
    (hf : f s (s.readBlock n) = f u (u.readBlock n))
    (ht : exec i s = .next t) (hv : exec i u = .next v) :
    t.memRead s.dstAddr n = v.memRead u.dstAddr n := by
  rw [hi.memRead_eq hs ht, hi.memRead_eq hu hv, hf]

end

section
variable {c d : Config}

/-- Of the configuration the Kuznyechik transforms read `PI` and `LVEC` alone (R121 to R133). -/
theorem kuz_congr (hpi : c.piRows = d.piRows) (hlvec : c.lvec = d.lvec) :
    kuzEncrypt c = kuzEncrypt d ∧ kuzDecrypt c = kuzDecrypt d := by
  obtain ⟨size, pi, lvec, msb⟩ := c
  obtain ⟨size', pi', lvec', msb'⟩ := d
  obtain rfl : pi = pi' := hpi
  obtain rfl : lvec = lvec' := hlvec
  exact ⟨rfl, rfl⟩

/-- Of the configuration the Magma transforms read `MSB` alone (R152 to R158). -/
theorem mag_congr (hmsb : c.msb = d.msb) :
    magEncrypt c = magEncrypt d ∧ magDecrypt c = magDecrypt d := by
  obtain ⟨size, pi, lvec, msb⟩ := c
  obtain ⟨size', pi', lvec', msb'⟩ := d
  obtain rfl : msb = msb' := hmsb
  exact ⟨rfl, rfl⟩

end

/-- Settles O26: each command stores the transform of the source block
(`BlockCommandRule.memRead_congr`), which reads the cipher's tables and bank alone. -/
theorem outputDependsOnKeyAndBlockOnly : Obligations.OutputDependsOnKeyAndBlockOnly := by
  intro s u t v
  constructor
  · intro i hi hs hu hpi hlvec hrk hblock ht hv
    obtain ⟨henc, hdec⟩ := kuz_congr hpi hlvec
    obtain ⟨ruleEnc, ruleDec⟩ := kuzBlockCommands
    simp only [List.mem_cons, List.not_mem_nil, or_false] at hi
    obtain rfl | rfl := hi
    · exact ruleEnc.memRead_congr hs hu (by rw [henc, hrk, hblock]) ht hv
    · exact ruleDec.memRead_congr hs hu (by rw [hdec, hrk, hblock]) ht hv
  · intro i hi hs hu hmsb hk hblock ht hv
    obtain ⟨henc, hdec⟩ := mag_congr hmsb
    obtain ⟨ruleEnc, ruleDec, ruleEncStd, ruleDecStd⟩ := magBlockCommands
    simp only [List.mem_cons, List.not_mem_nil, or_false] at hi
    obtain rfl | rfl | rfl | rfl := hi
    · exact ruleEnc.memRead_congr hs hu (by rw [henc, hk, hblock]) ht hv
    · exact ruleDec.memRead_congr hs hu (by rw [hdec, hk, hblock]) ht hv
    · exact ruleEncStd.memRead_congr hs hu (by rw [henc, hk, hblock]) ht hv
    · exact ruleDecStd.memRead_congr hs hu (by rw [hdec, hk, hblock]) ht hv

end Sys2Proof.Machine
end

section
/-! The substitution table and its inverse (spec/40_gf_and_tables.md R104, R105), the commands `SUB`
and `SUBINV` (R111, R112) and the layers `S` and `Sinv` (spec/41_kuznyechik.md R121, R122). -/

namespace Sys2Proof.Machine

/-! ### `PI` as a list and as rows (R104) -/

section
variable {c : Config}

theorem piList_eq (c : Config) : c.piList = c.piRows.flatten.toList := by
  simp only [Config.piList, Vector.flatten, Vector.toList, Array.toList_flatten, Array.toList_map,
    List.map_map]
  rfl

theorem length_piList (c : Config) : c.piList.length = 256 := by
  rw [piList_eq, Vector.length_toList]

/-- The row and the column of an index (R104). -/
theorem toNat_row_and_column (v : Byte) :
    (v.extractLsb' 4 4).toNat = v.toNat / 16 ∧ (v.extractLsb' 0 4).toNat = v.toNat % 16 := by
  have := v.isLt
  simp only [BitVec.extractLsb'_toNat, Nat.shiftRight_eq_div_pow]
  omega

/-- `PI[v]` stands in row `v div 16`, column `v mod 16` (R104). -/
theorem substitute_eq_row_column (c : Config) (v : Byte) :
    substitute c v
      = (c.piRows[v.toNat / 16]'(by have := v.isLt; omega))[v.toNat % 16]'(by omega) := by
  obtain ⟨hrow, hcol⟩ := toNat_row_and_column v
  simp only [substitute, hrow, hcol]

/-- `PI[v]` is entry `v` of the list of the 256 entries (R104). -/
theorem getElem?_piList (c : Config) (v : Byte) : c.piList[v.toNat]? = some (substitute c v) := by
  have hv : v.toNat < 16 * 16 := v.isLt
  rw [piList_eq, Vector.getElem?_toList, Vector.getElem?_eq_getElem hv, Vector.getElem_flatten,
    substitute_eq_row_column]

/-! ### A permutation and its inverse (R105) -/

/-- A table whose entries are pairwise different substitutes injectively. -/
theorem substitute_injective (hc : c.piOk = true) : Function.Injective (substitute c) := by
  have hnodup : c.piList.Nodup := List.Nodup.of_map _ (of_decide_eq_true hc)
  intro v w h
  have hv : v.toNat < c.piList.length := (length_piList c).symm ▸ v.isLt
  have hentry : c.piList[v.toNat]? = c.piList[w.toNat]? := by
    rw [getElem?_piList, getElem?_piList, h]
  exact BitVec.eq_of_toNat_eq ((List.getElem?_inj hv hnodup).mp hentry)

theorem substitute_surjective (hc : c.piOk = true) : Function.Surjective (substitute c) :=
  Finite.injective_iff_surjective.mp (substitute_injective hc)

/-- The scan for `PIINV[PI[v]]` finds an index with the entry `PI[v]`, and there is only one. -/
theorem inverseSubstitute_substitute (hc : c.piOk = true) (v : Byte) :
    inverseSubstitute c (substitute c v) = v := by
  unfold inverseSubstitute
  split
  next i hi =>
    have hentry := List.find?_some
      (p := fun i => substitute c (BitVec.ofNat 8 i) == substitute c v) hi
    exact substitute_injective hc (eq_of_beq hentry)
  next hnone =>
    have hv := List.find?_eq_none.mp hnone v.toNat (List.mem_range.mpr v.isLt)
    simp at hv

theorem substitute_inverseSubstitute (hc : c.piOk = true) (v : Byte) :
    substitute c (inverseSubstitute c v) = v := by
  obtain ⟨w, rfl⟩ := substitute_surjective hc v
  rw [inverseSubstitute_substitute hc]

end

/-- Settles O42: `inverseSubstitute_substitute` and `substitute_inverseSubstitute`. -/
theorem substitutionsInverse : Obligations.SubstitutionsInverse :=
  fun _ v hc => ⟨inverseSubstitute_substitute hc v, substitute_inverseSubstitute hc v⟩

/-! ### The commands `SUB` and `SUBINV` (R111, R112) -/

section
variable {s : State}

theorem exec_sub (hs : s.Live) (a : Byte) :
    exec (.sub a) s = .next { s with x5 := (substitute s.cfg a).setWidth 32, err := 0 } :=
  exec_ok (i := .sub a) hs rfl

theorem exec_subinv (hs : s.Live) (a : Byte) :
    exec (.subinv a) s = .next { s with x5 := (inverseSubstitute s.cfg a).setWidth 32, err := 0 } :=
  exec_ok (i := .subinv a) hs rfl

end

theorem toNat_encode_sub (a : Byte) :
    (encode (.sub a)).toNat = 0x00000011 + 2 ^ 16 * a.toNat ∧
    (encode (.subinv a)).toNat = 0x00000012 + 2 ^ 16 * a.toNat := by
  simp [encode, toNat_wordOfFields]

/-- A word of `SUB` or `SUBINV` with bits 15:8 or 31:24 not 0 is illegal (R72). -/
theorem decode_error_of_sub {w : Word} (hop : fieldOp w = 0x11#8 ∨ fieldOp w = 0x12#8)
    (hbits : w.extractLsb' 8 8 ≠ 0 ∨ fieldB w ≠ 0) : ∃ r, decode w = .error r := by
  have hmem : fieldOp w ∈ [0x11#8, 0x12#8] := by simpa using hop
  rw [decode_formatT (List.mem_cons_of_mem _ hmem),
    decodeFormatT_error_iff (List.mem_cons_of_mem _ hmem)]
  exact hbits.imp_right fun hb => ⟨hmem, hb⟩

/-- The entry of `PI` by its row and column, as the table is printed (R104). -/
theorem getElem?_piRows (c : Config) (a : Byte) :
    (c.piRows[a.toNat / 16]?.bind fun row => row[a.toNat % 16]?) = some (substitute c a) := by
  have hrow : a.toNat / 16 < 16 := by have := a.isLt; omega
  have hcol : a.toNat % 16 < 16 := by omega
  rw [substitute_eq_row_column, Vector.getElem?_eq_getElem hrow, Option.bind_some,
    Vector.getElem?_eq_getElem hcol]

/-- The examples of R111 and R112 with the default `PI`. -/
theorem substitution_examples :
    substitute defaultConfig 0x00 = 0xFC ∧ substitute defaultConfig 0xFF = 0xB6 ∧
    inverseSubstitute defaultConfig 0xFC = 0x00 ∧ inverseSubstitute defaultConfig 0x00 = 0xA5 := by
  decide +kernel

/-- Settles O31: the effects, the words and the illegal words by the rules of the two commands, the
table by `getElem?_piRows`; the four examples are evaluated. -/
theorem substitutionCommands : Obligations.SubstitutionCommands :=
  ⟨fun a _ hs => ⟨exec_sub hs a, exec_subinv hs a⟩, toNat_encode_sub,
    fun _ => decode_error_of_sub, getElem?_piRows, fun _ a hc => inverseSubstitute_substitute hc a,
    substitution_examples⟩

/-! ### The layers `S` and `Sinv` (R121, R122) -/

section
variable {c : Config}

theorem getElem_kuzS (c : Config) (b : KuzBlock) (i : Nat) (h : i < 16) :
    (kuzS c b)[i] = substitute c b[i] := by
  simp [kuzS, getElem_seqOf]

theorem getElem_kuzSinv (c : Config) (b : KuzBlock) (i : Nat) (h : i < 16) :
    (kuzSinv c b)[i] = inverseSubstitute c b[i] := by
  simp [kuzSinv, getElem_seqOf]

theorem kuzSinv_kuzS (hc : c.piOk = true) (b : KuzBlock) : kuzSinv c (kuzS c b) = b := by
  ext i hi : 1
  rw [getElem_kuzSinv, getElem_kuzS, inverseSubstitute_substitute hc]

theorem kuzS_kuzSinv (hc : c.piOk = true) (b : KuzBlock) : kuzS c (kuzSinv c b) = b := by
  ext i hi : 1
  rw [getElem_kuzS, getElem_kuzSinv, substitute_inverseSubstitute hc]

end

/-- Settles O43: the layers at an index are the substitutions of the byte there; the example is
evaluated. -/
theorem substitutionLayers : Obligations.SubstitutionLayers := by
  refine ⟨fun c b i h => ?forward, fun c b i h hc => ?backward,
    fun c b hc => ⟨kuzSinv_kuzS hc b, kuzS_kuzSinv hc b⟩, by decide +kernel⟩
  case forward => rw [getElem?_piList, getElem_kuzS]
  case backward => rw [getElem?_piList, getElem_kuzSinv, substitute_inverseSubstitute hc]

end Sys2Proof.Machine
end

section
/-! GF(2^8) as a field (spec/40_gf_and_tables.md R100, R103): the product is that of polynomials
modulo `p(x)`, and the laws of the multiplication table. -/

namespace Sys2Proof.Field
open Sys2Proof.Machine Polynomial

/-! ### Bytes as polynomials (R100) -/

/-- The sum in the field is the exclusive-or: coefficients add modulo 2. -/
theorem bytePoly_xor (a b : Byte) : bytePoly (a ^^^ b) = bytePoly a + bytePoly b := by
  rw [bytePoly, bytePoly, bytePoly, ← Finset.sum_add_distrib]
  refine Finset.sum_congr rfl fun i _ => ?_
  rw [BitVec.getLsbD_xor]
  cases a.getLsbD i <;> cases b.getLsbD i
  case true.true => simp [CharTwo.add_self_eq_zero]
  all_goals simp

/-- A shift to the left multiplies by `X`, without the coefficient that leaves the byte. -/
theorem bytePoly_shiftLeft_one (a : Byte) :
    bytePoly (a <<< 1) + (if a.getLsbD 7 then X ^ 8 else 0) = X * bytePoly a := by
  have hbit (i : Nat) (hi : i < 7) : (a <<< 1).getLsbD (i + 1) = a.getLsbD i := by
    have hi' : i + 1 < 8 := Nat.succ_lt_succ hi
    rw [BitVec.getLsbD_shiftLeft, decide_eq_true hi']
    rfl
  have hzero : (a <<< 1).getLsbD 0 = false := by simp
  rw [bytePoly, bytePoly, Finset.sum_range_succ', hzero, Finset.sum_range_succ _ 7, mul_add,
    Finset.mul_sum]
  congr 1
  · rw [if_neg Bool.false_ne_true, add_zero]
    refine Finset.sum_congr rfl fun i hi => ?_
    rw [hbit i (Finset.mem_range.mp hi), mul_ite, mul_zero, pow_succ']
  · rw [mul_ite, mul_zero, ← pow_succ']

/-- The byte 0xC3 stands for `p(x) - x^8` (R101). -/
theorem bytePoly_C3 : bytePoly 0xC3#8 = X ^ 8 + modulus := by
  have hpoly : bytePoly 0xC3#8 = X ^ 7 + X ^ 6 + X + 1 := by
    simp [bytePoly, Finset.sum_range_succ]
    ring
  rw [hpoly, modulus, ← add_assoc, ← add_assoc, ← add_assoc, ← add_assoc,
    CharTwo.add_self_eq_zero, zero_add]

/-- The class of a byte's polynomial modulo `p(x)`. -/
noncomputable def byteClass (a : Byte) : AdjoinRoot modulus := AdjoinRoot.mk modulus (bytePoly a)

theorem byteClass_xor (a b : Byte) : byteClass (a ^^^ b) = byteClass a + byteClass b := by
  rw [byteClass, bytePoly_xor, map_add, byteClass, byteClass]

theorem byteClass_zero : byteClass 0 = 0 := by
  have h : bytePoly 0 = 0 := by simp [bytePoly]
  rw [byteClass, h, map_zero]

/-- `xtime` multiplies by `x` modulo `p(x)`: the fold by 0xC3 replaces `x^8` (R101). -/
theorem byteClass_xtime (a : Byte) :
    byteClass (xtime a) = AdjoinRoot.root modulus * byteClass a := by
  rw [byteClass, byteClass, ← AdjoinRoot.mk_X, ← map_mul, ← bytePoly_shiftLeft_one, xtime]
  cases a.getLsbD 7
  case false => rw [cond_false, if_neg Bool.false_ne_true, add_zero]
  case true =>
    rw [cond_true, if_pos rfl, bytePoly_xor, bytePoly_C3, ← add_assoc, map_add, AdjoinRoot.mk_self,
      add_zero]

/-- The loop of R102 adds to its sum the multiplicand times the remaining bits of `b`. -/
theorem byteClass_gfmulLoop (b : Byte) (n i : Nat) (a r : Byte) :
    byteClass (gfmulLoop b n i a r) = byteClass r + byteClass a *
      ∑ j ∈ Finset.range n, if b.getLsbD (i + j) then AdjoinRoot.root modulus ^ j else 0 := by
  induction n generalizing i a r with
  | zero => rw [gfmulLoop, Finset.sum_range_zero, mul_zero, add_zero]
  | succ n ih =>
    have hsum : (∑ j ∈ Finset.range n, if b.getLsbD (i + (j + 1)) then
          AdjoinRoot.root modulus ^ (j + 1) else 0)
        = AdjoinRoot.root modulus * ∑ j ∈ Finset.range n,
            if b.getLsbD (i + 1 + j) then AdjoinRoot.root modulus ^ j else 0 := by
      rw [Finset.mul_sum]
      refine Finset.sum_congr rfl fun j _ => ?_
      rw [mul_ite, mul_zero, pow_succ', Nat.add_right_comm i 1 j, Nat.add_assoc]
    rw [gfmulLoop, ih, byteClass_xtime, Finset.sum_range_succ', hsum, Nat.add_zero, pow_zero]
    cases b.getLsbD i
    case false => rw [cond_false, if_neg Bool.false_ne_true]; ring
    case true => rw [cond_true, if_pos rfl, byteClass_xor]; ring

theorem byteClass_gfmul (a b : Byte) : byteClass (gfmul a b) = byteClass a * byteClass b := by
  have hb : byteClass b = ∑ j ∈ Finset.range 8,
      if b.getLsbD (0 + j) then AdjoinRoot.root modulus ^ j else 0 := by
    rw [byteClass, bytePoly, map_sum]
    refine Finset.sum_congr rfl fun j _ => ?_
    rw [apply_ite (AdjoinRoot.mk modulus), map_pow, AdjoinRoot.mk_X, map_zero, Nat.zero_add]
  rw [gfmul, byteClass_gfmulLoop, byteClass_zero, zero_add, ← hb]

/-- Settles O40: addition by `bytePoly_xor`; the product of the classes modulo `p(x)` is the class
of the product (`byteClass_gfmul`). -/
theorem gfmulIsFieldProduct : Obligations.GfmulIsFieldProduct := by
  refine ⟨bytePoly_xor, fun a b => ?_⟩
  rw [← AdjoinRoot.mk_eq_mk, map_mul]
  exact (byteClass_gfmul a b).symm

end Sys2Proof.Field

namespace Sys2Proof.Machine

/-! ### The laws of the multiplication table (R103) -/

theorem gfmul_xor_right (a b c : Byte) : gfmul a (b ^^^ c) = gfmul a b ^^^ gfmul a c := by
  rw [gfmul_comm a, gfmul_xor_left, gfmul_comm b, gfmul_comm c]

/-- Multiplying by 0x02 is `xtime` (R101). -/
theorem gfmul_two : gfmul 0x02 = xtime := by
  have h : (0x02 : Byte) = xtime 1 := by decide
  funext b
  rw [h, gfmul_xtime_left, gfmul_one_left]

/-- The row of a power of 0x02. -/
theorem gfmul_xtime_iterate (k : Nat) (b : Byte) : gfmul (xtime^[k] 1) b = xtime^[k] b := by
  induction k with
  | zero => exact gfmul_one_left b
  | succ k ih =>
    rw [Function.iterate_succ_apply', Function.iterate_succ_apply', gfmul_xtime_left, ih]

theorem xtime_iterate_255_one : xtime^[255] 1 = 1 := by decide +kernel

/-- 0x02 has none of the orders that properly divide 255. -/
theorem xtime_iterate_one_ne {g : Nat} (hg : g ∈ Nat.properDivisors 255) : xtime^[g] 1 ≠ 1 := by
  have hdiv : Nat.properDivisors 255 = {1, 3, 5, 15, 17, 51, 85} := by decide +kernel
  have hne : ∀ g ∈ ({1, 3, 5, 15, 17, 51, 85} : Finset Nat), xtime^[g] 1 ≠ 1 := by decide +kernel
  exact hne g (hdiv ▸ hg)

/-- The order of 0x02 divides 255 and is none of the proper divisors. -/
theorem minimalPeriod_xtime : Function.minimalPeriod xtime 1 = 255 := by
  have hdvd : Function.minimalPeriod xtime 1 ∣ 255 :=
    Function.IsPeriodicPt.minimalPeriod_dvd xtime_iterate_255_one
  by_contra hne
  have hlt := Nat.lt_of_le_of_ne (Nat.le_of_dvd (by decide) hdvd) hne
  exact xtime_iterate_one_ne (Nat.mem_properDivisors.mpr ⟨hdvd, hlt⟩)
    (Function.iterate_minimalPeriod (f := xtime) (x := 1))

theorem xtime_bijective : Function.Bijective xtime := by
  have hid : xtime^[255] = id := by
    funext b
    rw [← gfmul_xtime_iterate, xtime_iterate_255_one, gfmul_one_left, id]
  refine Function.bijective_iff_has_inverse.mpr ⟨xtime^[254], fun b => ?_, fun b => ?_⟩
  · exact (Function.iterate_succ_apply xtime 254 b).symm.trans (congrFun hid b)
  · exact (Function.iterate_succ_apply' xtime 254 b).symm.trans (congrFun hid b)

/-- Every byte but 0 is a power of 0x02: the 255 powers are different and none is 0. -/
theorem exists_xtime_iterate {a : Byte} (ha : a ≠ 0) : ∃ k, xtime^[k] 1 = a := by
  have hinj : Set.InjOn (fun k => xtime^[k] 1) (Finset.range 255) := by
    have h := Function.iterate_injOn_Iio_minimalPeriod (f := xtime) (x := 1)
    rw [minimalPeriod_xtime] at h
    simpa using h
  have hsub : (Finset.range 255).image (fun k => xtime^[k] 1) ⊆ Finset.univ.erase 0 := by
    intro b hb
    obtain ⟨k, -, rfl⟩ := Finset.mem_image.mp hb
    refine Finset.mem_erase.mpr ⟨fun h0 => ?_, Finset.mem_univ _⟩
    rw [← Function.iterate_fixed xtime_zero k] at h0
    exact absurd (xtime_bijective.injective.iterate k h0) (by decide)
  have hcard : (Finset.univ.erase (0 : Byte)).card ≤
      ((Finset.range 255).image fun k => xtime^[k] 1).card := by
    rw [Finset.card_image_of_injOn hinj, Finset.card_erase_of_mem (Finset.mem_univ _),
      Finset.card_univ, card_byte, Finset.card_range]
  have hmem : a ∈ (Finset.range 255).image fun k => xtime^[k] 1 :=
    Finset.eq_of_subset_of_card_le hsub hcard ▸ Finset.mem_erase.mpr ⟨ha, Finset.mem_univ _⟩
  obtain ⟨k, -, hk⟩ := Finset.mem_image.mp hmem
  exact ⟨k, hk⟩

/-- The row of a byte that is not 0 is some iterate of `xtime`, a permutation. -/
theorem gfmul_bijective {a : Byte} (ha : a ≠ 0) : Function.Bijective (gfmul a) := by
  obtain ⟨k, rfl⟩ := exists_xtime_iterate ha
  have hrow : gfmul (xtime^[k] 1) = xtime^[k] := funext (gfmul_xtime_iterate k)
  rw [hrow]
  exact xtime_bijective.iterate k

theorem xtime_iterate_ne {n : Nat} (h0 : 0 < n) (h : n < 255) : xtime^[n] 1 ≠ 1 := by
  intro hn
  have hle := Function.IsPeriodicPt.minimalPeriod_le h0 hn
  rw [minimalPeriod_xtime] at hle
  exact absurd h (Nat.not_lt_of_le hle)

/-- Settles O41: the loop of R102 is linear and its operands commute; 0x02 has order 255
(`minimalPeriod_xtime`), so every row but that of 0 is a power of the permutation `xtime`. -/
theorem multiplicationTableLaws : Obligations.MultiplicationTableLaws := by
  refine ⟨gfmul_comm, gfmul_zero_left, gfmul_one_left, gfmul_xor_right,
    fun a => gfmul_bijective, ?_⟩
  rw [gfmul_two]
  exact ⟨xtime_iterate_255_one, fun n => xtime_iterate_ne⟩

end Sys2Proof.Machine
end

section
/-! Folds over a list of keys or indices, for the rounds of the two ciphers. -/

namespace Sys2Proof.Machine

section
variable {α β γ : Type} {f g : β → α → β}

/-- The intermediate states of a fold, one for each element. -/
theorem exists_foldl_states (f : β → α → β) (b : β) (l : List α) :
    ∃ st : Nat → β, st 0 = b ∧ (∀ r (h : r < l.length), st (r + 1) = f (st r) l[r]) ∧
      l.foldl f b = st l.length := by
  refine ⟨fun r => (l.take r).foldl f b, rfl, fun r h => ?_, ?_⟩
  · simp only [← List.take_append_getElem h, List.foldl_append, List.foldl_cons, List.foldl_nil]
  · simp only [List.take_length]

/-- Steps that are undone one by one, in the reverse order, are undone together. -/
theorem foldl_reverse_cancel (h : ∀ b a, g (f b a) a = b) (l : List α) (b : β) :
    l.reverse.foldl g (l.foldl f b) = b := by
  induction l generalizing b with
  | nil => rfl
  | cons a l ih =>
    rw [List.reverse_cons, List.foldl_append, List.foldl_cons (f := f), ih, List.foldl_cons,
      List.foldl_nil, h]

/-- The list of a sequence, element by element. -/
theorem toList_eq_map_finRange {n : Nat} (v : Vector α n) :
    v.toList = (List.finRange n).map fun i => v[i] := by
  apply List.ext_getElem <;> simp

end

end Sys2Proof.Machine
end

section
/-! The linear layer of Kuznyechik (spec/41_kuznyechik.md R123 to R127). -/

namespace Sys2Proof.Machine

/-! ### The feedback byte (R123) -/

section
variable (c : Config) (a b : KuzBlock)

/-- The exclusive-or of the products of fifteen bytes with `LVEC[0..14]`. -/
def kuzProducts (l : List Byte) : Byte :=
  (List.zipWith gfmul l (c.lvec.toList.take 15)).foldl (· ^^^ ·) 0#8

/-- The feedback byte is the last byte and the products of the others. -/
theorem kuzLfb_eq : kuzLfb c b = b[15] ^^^ kuzProducts c (b.toList.take 15) := by
  rw [kuzLfb, kuzProducts, ← List.foldl_assoc (α := Byte) (op := (· ^^^ ·)), BitVec.xor_zero]

theorem toList_sixteen {α : Type} (v : Vector α 16) : v.toList =
    [v[0], v[1], v[2], v[3], v[4], v[5], v[6], v[7], v[8], v[9], v[10], v[11], v[12], v[13], v[14],
      v[15]] :=
  (toList_eq_map_finRange v).trans rfl

theorem kuzLfb_eq_xor : kuzLfb c b =
    gfmul b[0] c.lvec[0] ^^^ gfmul b[1] c.lvec[1] ^^^ gfmul b[2] c.lvec[2] ^^^ gfmul b[3] c.lvec[3]
    ^^^ gfmul b[4] c.lvec[4] ^^^ gfmul b[5] c.lvec[5] ^^^ gfmul b[6] c.lvec[6]
    ^^^ gfmul b[7] c.lvec[7] ^^^ gfmul b[8] c.lvec[8] ^^^ gfmul b[9] c.lvec[9]
    ^^^ gfmul b[10] c.lvec[10] ^^^ gfmul b[11] c.lvec[11] ^^^ gfmul b[12] c.lvec[12]
    ^^^ gfmul b[13] c.lvec[13] ^^^ gfmul b[14] c.lvec[14] ^^^ b[15] := by
  rw [kuzLfb_eq, BitVec.xor_comm, kuzProducts, toList_sixteen b, toList_sixteen c.lvec]
  simp only [List.take_succ_cons, List.take_zero, List.zipWith_cons_cons, List.zipWith_nil_left,
    List.foldl_cons, List.foldl_nil, BitVec.zero_xor]

theorem kuzLfb_xor : kuzLfb c (xorBytes a b) = kuzLfb c a ^^^ kuzLfb c b := by
  simp only [kuzLfb_eq_xor, getElem_xorBytes, gfmul_xor_left]
  ac_rfl

theorem kuzLfb_zero : kuzLfb c (Vector.replicate 16 0) = 0 := by
  simp only [kuzLfb_eq_xor, Vector.getElem_replicate, gfmul_zero_left]
  rfl

end

/-- Settles O44: product by product (`kuzLfb_eq_xor`), from which linearity follows; the two
examples are evaluated. -/
theorem feedbackByte : Obligations.FeedbackByte :=
  ⟨kuzLfb_eq_xor, kuzLfb_xor, kuzLfb_zero, by decide +kernel, by decide +kernel⟩

/-! ### The forward and the inverse step (R124, R126) -/

section
variable (c : Config) (b : KuzBlock)

theorem getElem_kuzRstep_zero : (kuzRstep c b)[0] = kuzLfb c b := rfl

theorem getElem_kuzRstep_succ (i : Nat) (h : i < 15) : (kuzRstep c b)[i + 1] = b[i] := by
  simp [kuzRstep, getElem_seqOf]

/-- The rotated block: the bytes from the second on, then the first (R126). -/
theorem getElem_kuzRotate (i : Nat) (h : i < 16) :
    (kuzRotate b)[i] = if h' : i < 15 then b[i + 1] else b[0] := by
  simp only [kuzRotate, getElem_seqOf, List.getElem_append, List.length_drop, Vector.length_toList,
    List.getElem_drop, Vector.getElem_toList, List.getElem_singleton, Nat.add_comm 1 i]

theorem getElem_kuzRinvstep (i : Nat) (h : i < 15) : (kuzRinvstep c b)[i] = b[i + 1] := by
  have hrot : (kuzRinvstep c b)[i] = (kuzRotate b)[i] := by
    simp [kuzRinvstep, getElem_seqOf, h]
  rw [hrot, getElem_kuzRotate, dif_pos h]

theorem getElem_kuzRinvstep_last : (kuzRinvstep c b)[15] = kuzLfb c (kuzRotate b) := by
  simp [kuzRinvstep, getElem_seqOf]

/-- The last byte of the inverse step, product by product (R126). -/
theorem kuzRinvstep_last_eq_xor : (kuzRinvstep c b)[15] =
    gfmul b[1] c.lvec[0] ^^^ gfmul b[2] c.lvec[1] ^^^ gfmul b[3] c.lvec[2]
    ^^^ gfmul b[4] c.lvec[3] ^^^ gfmul b[5] c.lvec[4] ^^^ gfmul b[6] c.lvec[5]
    ^^^ gfmul b[7] c.lvec[6] ^^^ gfmul b[8] c.lvec[7] ^^^ gfmul b[9] c.lvec[8]
    ^^^ gfmul b[10] c.lvec[9] ^^^ gfmul b[11] c.lvec[10] ^^^ gfmul b[12] c.lvec[11]
    ^^^ gfmul b[13] c.lvec[12] ^^^ gfmul b[14] c.lvec[13] ^^^ gfmul b[15] c.lvec[14] ^^^ b[0] := by
  rw [getElem_kuzRinvstep_last, kuzLfb_eq_xor]
  simp [getElem_kuzRotate]

/-- Two blocks with the same first fifteen bytes have the same sum of the feedback byte and the last
byte: the products alone. -/
theorem kuzLfb_xor_last_congr {a b : KuzBlock} (h : ∀ i (_ : i < 15), a[i] = b[i]) :
    kuzLfb c a ^^^ a[15] = kuzLfb c b ^^^ b[15] := by
  have htake : a.toList.take 15 = b.toList.take 15 := by
    apply List.ext_getElem (by simp)
    intro i hi _
    simpa using h i (by simpa using hi)
  have hproducts (v : KuzBlock) : kuzLfb c v ^^^ v[15] = kuzProducts c (v.toList.take 15) := by
    rw [kuzLfb_eq, BitVec.xor_comm, ← BitVec.xor_assoc, BitVec.xor_self, BitVec.zero_xor]
  rw [hproducts, hproducts, htake]

/-- The inverse step takes the feedback byte off again: the rotated block has the same products, and
its last byte is the feedback byte. -/
theorem kuzRinvstep_kuzRstep : kuzRinvstep c (kuzRstep c b) = b := by
  ext i hi : 1
  obtain hlt | rfl : i < 15 ∨ i = 15 := by omega
  · rw [getElem_kuzRinvstep c _ i hlt, getElem_kuzRstep_succ c b i hlt]
  · have hfirst : ∀ i (_ : i < 15), (kuzRotate (kuzRstep c b))[i] = b[i] := fun i h => by
      rw [getElem_kuzRotate, dif_pos h, getElem_kuzRstep_succ c b i h]
    have hlast : (kuzRotate (kuzRstep c b))[15] = kuzLfb c b := by
      rw [getElem_kuzRotate, dif_neg (by omega), getElem_kuzRstep_zero]
    have hsum := kuzLfb_xor_last_congr c hfirst
    rw [hlast, BitVec.xor_comm] at hsum
    rw [getElem_kuzRinvstep_last]
    exact (BitVec.xor_right_inj _).mp hsum

/-- The forward step takes off the feedback byte that the inverse step has put last. -/
theorem kuzRstep_kuzRinvstep : kuzRstep c (kuzRinvstep c b) = b := by
  ext i hi : 1
  cases i with
  | succ i => rw [getElem_kuzRstep_succ c _ i (by omega), getElem_kuzRinvstep c b i (by omega)]
  | zero =>
    have hfirst : ∀ i (_ : i < 15), (kuzRinvstep c b)[i] = (kuzRotate b)[i] := fun i h => by
      rw [getElem_kuzRinvstep c b i h, getElem_kuzRotate, dif_pos h]
    have hlast : (kuzRotate b)[15] = b[0] := by
      rw [getElem_kuzRotate, dif_neg (by omega)]
    have hsum := kuzLfb_xor_last_congr c hfirst
    rw [hlast, getElem_kuzRinvstep_last, BitVec.xor_comm] at hsum
    rw [getElem_kuzRstep_zero]
    exact (BitVec.xor_right_inj _).mp hsum

end

/-- Settles O45: the steps at every index, and their inverse laws by `kuzLfb_xor_last_congr`; the
examples are evaluated. -/
theorem linearSteps : Obligations.LinearSteps :=
  ⟨fun c b => ⟨getElem_kuzRstep_zero c b, getElem_kuzRstep_succ c b⟩,
    fun c b => ⟨getElem_kuzRinvstep c b, kuzRinvstep_last_eq_xor c b⟩,
    fun c b => ⟨kuzRinvstep_kuzRstep c b, kuzRstep_kuzRinvstep c b⟩,
    by decide +kernel, by decide +kernel, by decide +kernel, by decide +kernel, by decide +kernel⟩

/-! ### The layers `L` and `Linv` (R125, R127) -/

section
variable (c : Config)

theorem kuzRstep_xorBytes (a b : KuzBlock) :
    kuzRstep c (xorBytes a b) = xorBytes (kuzRstep c a) (kuzRstep c b) := by
  ext i hi : 1
  rw [getElem_xorBytes]
  cases i with
  | zero => exact kuzLfb_xor c a b
  | succ i =>
    have h : i < 15 := by omega
    simp only [getElem_kuzRstep_succ c _ i h, getElem_xorBytes]

theorem kuzL_xorBytes (a b : KuzBlock) :
    kuzL c (xorBytes a b) = xorBytes (kuzL c a) (kuzL c b) := by
  have hiter (n : Nat) (a b : KuzBlock) : (kuzRstep c)^[n] (xorBytes a b)
      = xorBytes ((kuzRstep c)^[n] a) ((kuzRstep c)^[n] b) := by
    induction n generalizing a b with
    | zero => rfl
    | succ n ih => rw [Function.iterate_succ_apply, kuzRstep_xorBytes, ih]; rfl
  exact hiter 16 a b

theorem kuzRstep_zero : kuzRstep c (Vector.replicate 16 0) = Vector.replicate 16 0 := by
  ext i hi : 1
  cases i with
  | zero => exact kuzLfb_zero c
  | succ i => simp [getElem_kuzRstep_succ c _ i (by omega)]

theorem kuzL_zero : kuzL c (Vector.replicate 16 0) = Vector.replicate 16 0 :=
  Function.iterate_fixed (kuzRstep_zero c) 16

theorem kuzLinv_kuzL (b : KuzBlock) : kuzLinv c (kuzL c b) = b :=
  Function.LeftInverse.iterate (kuzRinvstep_kuzRstep c) 16 b

theorem kuzL_kuzLinv (b : KuzBlock) : kuzL c (kuzLinv c b) = b :=
  Function.LeftInverse.iterate (kuzRstep_kuzRinvstep c) 16 b

end

/-- Settles O46: each law of the layers by the law of one step, sixteen times; the two examples are
evaluated. -/
theorem linearLayers : Obligations.LinearLayers :=
  ⟨fun _ _ => ⟨rfl, rfl⟩, kuzL_xorBytes, kuzL_zero,
    fun c b => ⟨kuzLinv_kuzL c b, kuzL_kuzLinv c b⟩, by decide +kernel, by decide +kernel⟩

end Sys2Proof.Machine
end

section
/-! The key schedule and the rounds of Kuznyechik (spec/41_kuznyechik.md R128 to R134). -/

namespace Sys2Proof.Machine

/-! ### The key schedule (R128 to R131) -/

/-- The two round keys after group `g` of the schedule: the key halves, then one group for each pair
(R131). -/
def kuzPair (c : Config) (key : Key) : Nat → KuzBlock × KuzBlock
  | 0 => kuzKeyHalves key
  | g + 1 => kuzGroup c g (kuzPair c key g)

/-- The schedule, pair by pair. -/
theorem kuzSchedule_pair (c : Config) (key : Key) (g : Nat) (h : g < 5) :
    ((kuzSchedule c key)[2 * g], (kuzSchedule c key)[2 * g + 1]) = kuzPair c key g := by
  obtain rfl | rfl | rfl | rfl | rfl : g = 0 ∨ g = 1 ∨ g = 2 ∨ g = 3 ∨ g = 4 := by omega
  all_goals rfl

/-- Settles O47: the constants and the key halves as they are defined, and each pair of round keys
by `kuzSchedule_pair`. -/
theorem keyScheduleRecurrence : Obligations.KeyScheduleRecurrence := by
  refine ⟨fun c i _ => rfl, fun c key => ⟨?halves, fun g h => ?pair⟩⟩
  case halves => exact List.take_append_drop 16 key.toList
  case pair =>
    have hnext : ((kuzSchedule c key)[2 * g + 2], (kuzSchedule c key)[2 * g + 3])
        = kuzPair c key (g + 1) := kuzSchedule_pair c key (g + 1) (by omega)
    rw [hnext, kuzSchedule_pair c key g (by omega), kuzPair, kuzGroup]
    rfl

/-! ### The rounds one by one (R132, R133) -/

section
variable (c : Config) (rk : KuzBank) (b : KuzBlock)

theorem length_take_nine : (rk.toList.take 9).length = 9 := by simp

theorem kuzEncrypt_states : ∃ st : Nat → KuzBlock, st 0 = b ∧
    (∀ r (h : r < 9), st (r + 1) = kuzL c (kuzS c (xorBytes (st r) rk[r]))) ∧
    kuzEncrypt c rk b = xorBytes (st 9) rk[9] := by
  obtain ⟨st, h0, hstep, hlast⟩ := exists_foldl_states (kuzRound c) b (rk.toList.take 9)
  refine ⟨st, h0, fun r h => ?_, ?_⟩
  · rw [hstep r (by simp; omega), List.getElem_take, Vector.getElem_toList, kuzRound]
  · rw [kuzEncrypt, hlast, length_take_nine]

theorem kuzDecrypt_states : ∃ st : Nat → KuzBlock, st 0 = b ∧
    (∀ r (h : r < 9), st (r + 1) = kuzSinv c (kuzLinv c (xorBytes (st r) rk[9 - r]))) ∧
    kuzDecrypt c rk b = xorBytes (st 9) rk[0] := by
  obtain ⟨st, h0, hstep, hlast⟩ :=
    exists_foldl_states (kuzInvRound c) b (rk.toList.drop 1).reverse
  have hlen : (rk.toList.drop 1).reverse.length = 9 := by simp
  refine ⟨st, h0, fun r h => ?_, ?_⟩
  · have hkey : (rk.toList.drop 1).reverse[r]'(hlen ▸ h) = rk[9 - r] := by
      simp only [List.getElem_reverse, List.getElem_drop, Vector.getElem_toList, List.length_drop,
        Vector.length_toList]
      congr 1
      omega
    rw [hstep r (hlen ▸ h), hkey, kuzInvRound]
  · rw [kuzDecrypt, hlast, hlen]

end

/-- Settles O48: the states of the two folds over the round keys. -/
theorem kuzRounds : Obligations.KuzRounds :=
  fun c rk b => ⟨kuzEncrypt_states c rk b, kuzDecrypt_states c rk b⟩

/-! ### Decryption and encryption undo each other (R134) -/

/-- What undoes one encryption round: `Linv`, `Sinv`, and then the key. -/
def kuzUndoRound (c : Config) (b k : KuzBlock) : KuzBlock := xorBytes (kuzSinv c (kuzLinv c b)) k

section
variable {c : Config}

theorem kuzUndoRound_kuzRound (hc : c.piOk = true) (b k : KuzBlock) :
    kuzUndoRound c (kuzRound c b k) k = b := by
  rw [kuzUndoRound, kuzRound, kuzLinv_kuzL, kuzSinv_kuzS hc, xorBytes_cancel]

theorem kuzRound_kuzUndoRound (hc : c.piOk = true) (b k : KuzBlock) :
    kuzRound c (kuzUndoRound c b k) k = b := by
  rw [kuzRound, kuzUndoRound, xorBytes_cancel, kuzS_kuzSinv hc, kuzL_kuzLinv]

/-- Decryption adds `RK[9]` and then undoes the nine encryption rounds: its keys bracketed the other
way. -/
theorem kuzDecrypt_eq_undo (c : Config) (rk : KuzBank) (b : KuzBlock) : kuzDecrypt c rk b =
    (rk.toList.take 9).reverse.foldl (kuzUndoRound c) (xorBytes b rk[9]) := by
  rw [kuzDecrypt, toList_eq_map_finRange rk]
  rfl

theorem kuzDecrypt_kuzEncrypt (hc : c.piOk = true) (rk : KuzBank) (b : KuzBlock) :
    kuzDecrypt c rk (kuzEncrypt c rk b) = b := by
  rw [kuzDecrypt_eq_undo, kuzEncrypt, xorBytes_cancel]
  exact foldl_reverse_cancel (kuzUndoRound_kuzRound hc) _ b

theorem kuzEncrypt_kuzDecrypt (hc : c.piOk = true) (rk : KuzBank) (b : KuzBlock) :
    kuzEncrypt c rk (kuzDecrypt c rk b) = b := by
  have hcancel := foldl_reverse_cancel (kuzRound_kuzUndoRound hc) (rk.toList.take 9).reverse
    (xorBytes b rk[9])
  rw [List.reverse_reverse] at hcancel
  rw [kuzDecrypt_eq_undo, kuzEncrypt, hcancel, xorBytes_cancel]

end

/-- Settles O49: `kuzDecrypt_kuzEncrypt` and `kuzEncrypt_kuzDecrypt`. -/
theorem kuzRoundTrip : Obligations.KuzRoundTrip :=
  fun _ rk b hc => ⟨kuzDecrypt_kuzEncrypt hc rk b, kuzEncrypt_kuzDecrypt hc rk b⟩

end Sys2Proof.Machine
end

section
/-! The Magma cipher and its standard-byte-order wrapper (spec/42_magma.md R152 to R161), and the
round trip of the commands in place (R206). -/

namespace Sys2Proof.Machine

/-! ### The nibble substitution and the round function (R152, R153) -/

section
variable (c : Config) (a : Word)

/-- `t(a)` as a number: eight nibbles (R152). -/
theorem toNat_magT : (magT c a).toNat =
    (magLane c a 0).toNat + 16 * (magLane c a 1).toNat + 16 ^ 2 * (magLane c a 2).toNat
      + 16 ^ 3 * (magLane c a 3).toNat + 16 ^ 4 * (magLane c a 4).toNat
      + 16 ^ 5 * (magLane c a 5).toNat + 16 ^ 6 * (magLane c a 6).toNat
      + 16 ^ 7 * (magLane c a 7).toNat := by
  have hlane (i : Fin 8) : (magLane c a i).toNat < 2 ^ 4 := (magLane c a i).isLt
  simp only [magT, BitVec.toNat_append]
  rw [← Nat.shiftLeft_add_eq_or_of_lt (hlane 6), ← Nat.shiftLeft_add_eq_or_of_lt (hlane 5),
    ← Nat.shiftLeft_add_eq_or_of_lt (hlane 4), ← Nat.shiftLeft_add_eq_or_of_lt (hlane 3),
    ← Nat.shiftLeft_add_eq_or_of_lt (hlane 2), ← Nat.shiftLeft_add_eq_or_of_lt (hlane 1),
    ← Nat.shiftLeft_add_eq_or_of_lt (hlane 0)]
  simp only [Nat.shiftLeft_eq]
  omega

/-- Nibble `i` of `t(a)` is lane `i` (R152). -/
theorem extractLsb'_magT (i : Nat) (h : i < 8) :
    (magT c a).extractLsb' (4 * i) 4 = magLane c a ⟨i, h⟩ := by
  have hlane (i : Fin 8) : (magLane c a i).toNat < 16 := (magLane c a i).isLt
  have h0 := hlane 0
  have h1 := hlane 1
  have h2 := hlane 2
  have h3 := hlane 3
  have h4 := hlane 4
  have h5 := hlane 5
  have h6 := hlane 6
  have h7 := hlane 7
  apply BitVec.eq_of_toNat_eq
  rw [BitVec.extractLsb'_toNat, toNat_magT, Nat.shiftRight_eq_div_pow]
  obtain rfl | rfl | rfl | rfl | rfl | rfl | rfl | rfl :
    i = 0 ∨ i = 1 ∨ i = 2 ∨ i = 3 ∨ i = 4 ∨ i = 5 ∨ i = 6 ∨ i = 7 := by omega
  all_goals
    simp only [Fin.zero_eta, Fin.mk_one, Fin.reduceFinMk]
    omega

theorem toNat_nibbleOf (i : Nat) : (nibbleOf a i).toNat = a.toNat / 16 ^ i % 16 := by
  rw [nibbleOf, BitVec.extractLsb'_toNat, Nat.shiftRight_eq_div_pow, Nat.pow_mul]

/-- The rotation by 11 as arithmetic: the high 11 bits come in at the low end (R6). -/
theorem toNat_rotateLeft_eleven (w : Word) :
    (w.rotateLeft 11).toNat = w.toNat * 2 ^ 11 % 2 ^ 32 + w.toNat / 2 ^ 21 := by
  have hw := w.isLt
  have hlow : w.toNat / 2 ^ 21 < 2 ^ 11 := by omega
  have hhigh : w.toNat * 2 ^ 11 % 2 ^ 32 = (w.toNat % 2 ^ 21) <<< 11 := by
    rw [Nat.shiftLeft_eq]
    omega
  rw [BitVec.toNat_rotateLeft, Nat.shiftLeft_eq, Nat.shiftRight_eq_div_pow, hhigh,
    Nat.shiftLeft_add_eq_or_of_lt hlow, ← hhigh]

/-- The addition of the round function as arithmetic (R6). -/
theorem add_eq_ofNat_mod (k : Word) : a + k = BitVec.ofNat 32 ((a.toNat + k.toNat) % 2 ^ 32) := by
  apply BitVec.eq_of_toNat_eq
  rw [BitVec.toNat_add, BitVec.toNat_ofNat, Nat.mod_mod]

end

/-- Settles O51: nibble `i` is lane `i`, which is the table entry; the three examples are
evaluated. -/
theorem nibbleSubstitution : Obligations.NibbleSubstitution := by
  refine ⟨fun c a i h => ?entry, by decide +kernel, by decide +kernel, by decide +kernel⟩
  case entry =>
    have hcol : a.toNat / 16 ^ i % 16 < 16 := Nat.mod_lt _ (by decide)
    rw [extractLsb'_magT c a i h, Vector.getElem?_eq_getElem hcol]
    simp only [magLane, msbEntry, toNat_nibbleOf]
    rfl

/-- Settles O52: the sum and the rotation as arithmetic; the three examples are evaluated. -/
theorem roundFunction : Obligations.RoundFunction := by
  refine ⟨fun c k a => ?sum, by decide +kernel, by decide +kernel, by decide +kernel⟩
  case sum => rw [magG, toNat_rotateLeft_eleven, add_eq_ofNat_mod]

/-! ### The rounds one by one (R154 to R158) -/

theorem getElem_seqEnc : ∀ r : Fin 32,
    (seqEnc[r.val]'r.isLt).val = if r.val < 24 then r.val % 8 else 7 - r.val % 8 := by decide

theorem getElem_seqDec : ∀ r : Fin 32,
    (seqDec[r.val]'r.isLt).val = if r.val < 8 then r.val % 8 else 7 - r.val % 8 := by decide

/-- The halves after each round of a transform of 32 rounds, with key word `idx r` in round `r`. -/
theorem magXform_states (c : Config) (k : MagBank) (b : MagBlock) {order : List (Fin 8)}
    (hlen : order.length = 32) {idx : Nat → Nat} (hidx : ∀ r, idx r < 8)
    (horder : ∀ r (h : r < 32), (order[r]'(hlen ▸ h)).val = idx r) :
    ∃ n1 n2 : Nat → Word, n1 0 = le32 b[0] b[1] b[2] b[3] ∧ n2 0 = le32 b[4] b[5] b[6] b[7] ∧
      (∀ r, r < 32 → n2 (r + 1) = n1 r ∧
        n1 (r + 1) = magG c (k[idx r]'(hidx r)) (n1 r) ^^^ n2 r) ∧
      (magXform c k b order).toList = toLe32 (n2 32) ++ toLe32 (n1 32) := by
  obtain ⟨st, h0, hstep, hlast⟩ := exists_foldl_states (magRound c k) (magHalves b) order
  refine ⟨fun r => (st r).1, fun r => (st r).2, congrArg Prod.fst h0, congrArg Prod.snd h0,
    fun r h => ?_, ?_⟩
  · have hkey : k[order[r]'(hlen ▸ h)] = k[idx r]'(hidx r) := by
      simp only [← horder r h]
      rfl
    have hround := hstep r (hlen ▸ h)
    rw [magRound, hkey] at hround
    exact ⟨congrArg Prod.snd hround, congrArg Prod.fst hround⟩
  · rw [magXform, hlast, hlen]
    rfl

/-- Settles O53: the states of the fold over the two key orders. -/
theorem magRounds : Obligations.MagRounds := by
  intro c k b
  constructor
  · exact magXform_states c k b (order := seqEnc) rfl (fun r => by split <;> omega)
      fun r h => getElem_seqEnc ⟨r, h⟩
  · exact magXform_states c k b (order := seqDec) rfl (fun r => by split <;> omega)
      fun r h => getElem_seqDec ⟨r, h⟩

/-! ### Decryption and encryption undo each other (R159) -/

/-- The key orders of encryption and decryption are each other's reverse (R154, R155). -/
theorem seqDec_eq_reverse : seqDec = seqEnc.reverse := by decide

/-- A round on exchanged halves is undone by the same round on exchanged halves. -/
theorem swap_magRound_swap (c : Config) (k : MagBank) (p : Word × Word) (i : Fin 8) :
    (magRound c k (magRound c k p i).swap i).swap = p := by
  obtain ⟨n1, n2⟩ := p
  simp only [magRound, Prod.swap, ← BitVec.xor_assoc, BitVec.xor_self, BitVec.zero_xor]

/-- The rounds on exchanged halves, in the reverse order, undo the rounds. -/
theorem foldl_magRound_swap (c : Config) (k : MagBank) (order : List (Fin 8)) (p : Word × Word) :
    order.reverse.foldl (magRound c k) (order.foldl (magRound c k) p).swap = p.swap := by
  have hhom := List.foldl_hom Prod.swap (g₁ := fun p i => (magRound c k p.swap i).swap)
    (g₂ := magRound c k) (l := order.reverse) (init := order.foldl (magRound c k) p)
    (fun p i => by rw [Prod.swap_swap])
  rw [hhom, foldl_reverse_cancel (fun p i => swap_magRound_swap c k p i)]

/-- The framing exchanges the halves (R157). -/
theorem magHalves_magFrame (p : Word × Word) : magHalves (magFrame p) = p.swap :=
  Prod.ext (le32_toLe32 p.2) (le32_toLe32 p.1)

/-- The four bytes of a word read from four bytes (R7). -/
theorem toLe32_le32 (b0 b1 b2 b3 : Byte) : toLe32 (le32 b0 b1 b2 b3) = [b0, b1, b2, b3] := by
  have h0 := b0.isLt
  have h1 := b1.isLt
  have h2 := b2.isLt
  have h3 := b3.isLt
  simp only [toLe32, List.cons.injEq, and_true, ← BitVec.toNat_inj, BitVec.extractLsb'_toNat,
    toNat_le32, Nat.shiftRight_eq_div_pow]
  omega

theorem magFrame_swap_magHalves (b : MagBlock) : magFrame (magHalves b).swap = b := by
  apply bytes_ext_toList
  rw [magFrame, toList_seqOf, magHalves, Prod.swap, toLe32_le32, toLe32_le32,
    toList_eq_map_finRange b]
  rfl

/-- The transform with the reverse key order undoes the transform. -/
theorem magXform_reverse (c : Config) (k : MagBank) (b : MagBlock) (order : List (Fin 8)) :
    magXform c k (magXform c k b order) order.reverse = b := by
  rw [magXform, magXform, magHalves_magFrame, foldl_magRound_swap, magFrame_swap_magHalves]

section
variable (c : Config) (k : MagBank) (b : MagBlock)

theorem magDecrypt_magEncrypt : magDecrypt c k (magEncrypt c k b) = b := by
  rw [magDecrypt, magEncrypt, seqDec_eq_reverse, magXform_reverse]

theorem magEncrypt_magDecrypt : magEncrypt c k (magDecrypt c k b) = b := by
  have h := magXform_reverse c k b seqDec
  rwa [seqDec_eq_reverse, List.reverse_reverse, ← seqDec_eq_reverse] at h

theorem magDecryptStd_magEncryptStd : magDecryptStd c k (magEncryptStd c k b) = b := by
  rw [magDecryptStd, magEncryptStd, reverseBytes_reverseBytes, magDecrypt_magEncrypt,
    reverseBytes_reverseBytes]

end

/-- Settles O54: the key orders are each other's reverse (`magXform_reverse`). -/
theorem magRoundTrip : Obligations.MagRoundTrip :=
  fun c k b => ⟨magDecrypt_magEncrypt c k b, magEncrypt_magDecrypt c k b⟩

/-! ### The standard-byte-order wrapper (R160, R161) -/

/-- Byte `j` of group `i` of the reversed key (R160). -/
theorem getElem_wordrev (key : Key) (i j : Nat) (hi : i < 8) (hj : j < 4) :
    (wordrev key)[4 * i + j] = key[4 * i + 3 - j] := by
  have hindex : 4 * ((4 * i + j) / 4) + (3 - (4 * i + j) % 4) = 4 * i + 3 - j := by omega
  simp only [wordrev, getElem_seqOf, List.getElem_map, List.getElem_finRange, Fin.val_cast, hindex]

/-- The key words of the reversed key are the big-endian readings of its groups (R160). -/
theorem toNat_magKeyWords_wordrev (key : Key) (i : Nat) (h : i < 8) :
    (magKeyWords (wordrev key))[i].toNat
      = key[4 * i].toNat * 2 ^ 24 + key[4 * i + 1].toNat * 2 ^ 16 + key[4 * i + 2].toNat * 2 ^ 8
        + key[4 * i + 3].toNat := by
  have h0 : (wordrev key)[4 * i] = key[4 * i + 3] := getElem_wordrev key i 0 h (by decide)
  have h1 : (wordrev key)[4 * i + 1] = key[4 * i + 2] := getElem_wordrev key i 1 h (by decide)
  have h2 : (wordrev key)[4 * i + 2] = key[4 * i + 1] := getElem_wordrev key i 2 h (by decide)
  have h3 : (wordrev key)[4 * i + 3] = key[4 * i] := getElem_wordrev key i 3 h (by decide)
  rw [getElem_magKeyWords, magKeyWord, toNat_le32, h0, h1, h2, h3]
  omega

/-- Settles O55: the reversals at every index, and the wrapped round trip by the plain one; the two
examples are evaluated. -/
theorem standardByteOrder : Obligations.StandardByteOrder :=
  ⟨getElem_wordrev, toNat_magKeyWords_wordrev, getElem_reverseBytes,
    fun c k b => ⟨rfl, rfl, magDecryptStd_magEncryptStd c k b⟩, by decide +kernel,
    by decide +kernel⟩

/-! ### The round trip of the commands in place (R206) -/

section
variable {s t u : State} {n : Nat}

/-- A block is the bytes of the source (R202), so equal blocks stored there leave every byte as it
was. -/
theorem Stores.byteAt_eq_of_readBlock (hst : Stores s t s.srcAddr (s.readBlock n).toList) :
    t.byteAt = s.byteAt := by
  obtain ⟨hin, hout⟩ := hst
  funext a
  by_cases ha : s.srcAddr ≤ a ∧ a < s.srcAddr + n
  · obtain ⟨i, rfl⟩ := Nat.exists_eq_add_of_le ha.1
    have hi : i < n := by omega
    rw [hin i (by simpa using hi), Vector.getElem_toList]
    exact s.getElem_memReadSeq _ n i hi
  · exact hout a (by rw [Vector.length_toList]; omega)

/-- What is stored over a stored list of the same length replaces it. -/
theorem Stores.trans {a : Nat} {v v' : List Byte} (h : Stores s t a v) (h' : Stores t u a v')
    (hlen : v'.length = v.length) : Stores s u a v' := by
  obtain ⟨-, hout⟩ := h
  obtain ⟨hin', hout'⟩ := h'
  exact ⟨hin', fun x hx => (hout' x hx).trans (hout x (hlen ▸ hx))⟩

/-- The block at the source is what has been stored there. -/
theorem Stores.readBlock_eq {b : Bytes n} (h : Stores s t t.srcAddr b.toList) :
    t.readBlock n = b := by
  obtain ⟨hin, -⟩ := h
  ext i hi : 1
  have hread : (t.readBlock n)[i] = t.byteAt (t.srcAddr + i) := t.getElem_memReadSeq _ n i hi
  rw [hread, hin i (by simpa using hi), Vector.getElem_toList]

/-- A block command and the command with the inverse transform, in place, give every byte of `DMEM`
back. `hvalid` and `hinv` say that the valid bit and the transforms depend on no byte of `DMEM` and
not on `ERR`, the only parts the first command changes. -/
theorem inPlace_roundTrip {i j : Instr} {w w' : Word} {valid : State → Bool}
    {f g : State → Bytes n → Bytes n} (hi : BlockCommandRule i w n valid f)
    (hj : BlockCommandRule j w' n valid g)
    (hvalid : ∀ m e, valid { s with dmem := m, err := e } = valid s)
    (hinv : ∀ m e b, g { s with dmem := m, err := e } (f s b) = b)
    (hdst : s.dstAddr = s.srcAddr) (hs : s.BlockReady (valid s) n) (h : exec i s = .next t) :
    ∃ u, exec j t = .next u ∧ ∀ a, u.byteAt a = s.byteAt a := by
  obtain ⟨hlive, hkey, hfit⟩ := hs
  obtain ⟨-, ruleI⟩ := hi
  obtain ⟨-, ruleJ⟩ := hj
  obtain ⟨-, -, okI⟩ := ruleI s hlive
  obtain ⟨t', ht, hframe, hstored⟩ := okI hkey hfit
  rw [h] at ht
  cases ht
  rw [hdst] at hstored
  have hvalid' : valid t = valid s := hframe ▸ hvalid t.dmem 0
  have hinv' (b : Bytes n) : g t (f s b) = b := by rw [hframe]; exact hinv _ _ b
  have hsrc : t.srcAddr = s.srcAddr := by rw [hframe]; rfl
  have hdst' : t.dstAddr = s.srcAddr := by rw [hframe]; exact hdst
  have hlive' : t.Live := by rw [hframe]; exact hlive
  have hfit' : t.BlockBuffersFit n := by rw [hframe]; exact hfit
  obtain ⟨-, -, okJ⟩ := ruleJ t hlive'
  obtain ⟨u, hu, -, hback⟩ := okJ (hvalid'.trans hkey) hfit'
  have hblock : t.readBlock n = f s (s.readBlock n) := (hsrc ▸ hstored).readBlock_eq
  rw [hblock, hinv', hdst'] at hback
  have hboth := hstored.trans hback (by simp)
  exact ⟨u, hu, fun a => congrFun hboth.byteAt_eq_of_readBlock a⟩

end

/-- Settles O38: the two commands store a transform and its inverse (`inPlace_roundTrip`); the
inverse laws are those of the ciphers. -/
theorem inPlaceRoundTrip : Obligations.InPlaceRoundTrip := by
  intro s t hdst
  obtain ⟨kuzEnc, kuzDec⟩ := kuzBlockCommands
  obtain ⟨magEnc, magDec, magEncStd, magDecStd⟩ := magBlockCommands
  refine ⟨fun hpi hs h => ?kuz, fun hs h => ?mag, fun hs h => ?magStd⟩
  case kuz =>
    exact inPlace_roundTrip kuzEnc kuzDec (fun _ _ => rfl)
      (fun _ _ b => kuzDecrypt_kuzEncrypt hpi s.kuzRk b) hdst hs h
  case mag =>
    exact inPlace_roundTrip magEnc magDec (fun _ _ => rfl)
      (fun _ _ b => magDecrypt_magEncrypt s.cfg s.magK b) hdst hs h
  case magStd =>
    exact inPlace_roundTrip magEncStd magDecStd (fun _ _ => rfl)
      (fun _ _ b => magDecryptStd_magEncryptStd s.cfg s.magK b) hdst hs h

end Sys2Proof.Machine
end
